-- ==== Sys2Proof/Word.lean ====
section
/-! DEFINITION. The word types of the block (00_scope.md R3, R4; 10_state.md R10). -/

namespace Sys2Proof

/-- A byte of the buffer, of a frame or of a command operand (00_scope.md section 6). -/
abbrev Byte := BitVec 8

/-- The CRC register and the character time (00_scope.md R3: `CRC_W`, `CT_W` = 16). -/
abbrev Half := BitVec 16

/-- The byte index, the remaining-bytes counter and the lengths (00_scope.md R4: 9 bits). -/
abbrev Len := BitVec 9

/-- The silence counter (00_scope.md R4: `SIL_W` = 18). -/
abbrev Micros := BitVec 18

/-- A command word `CW` (30_encoding.md R61: `CW_W` = 20). -/
abbrev CmdWord := BitVec 20

/-- An encoded instruction, in one of the two spaces of spec/opcode_table.json (30_encoding.md R62):
a command word, or the function byte at offset 1 of a received frame. -/
inductive CodeWord where
  | command (cw : CmdWord)
  | function (fc : Byte)
  deriving DecidableEq, Repr

end Sys2Proof
end

