-- ==== Sys2Proof/Syntax.lean ====
section
/-! DEFINITION. The instructions: one constructor per row of spec/opcode_table.json. -/

namespace Sys2Proof

/-- The rows of spec/opcode_table.json. The first ten are the command words of 30_encoding.md R62, with
every bit of the operands kept, the ignored ones too (log 12): `a` is `CW[16:8]`, `index` and `x` are
`CW[15:8]`, `d` is `CW[7:0]`. The last nine are the function bytes of 30_encoding.md R67. -/
inductive Instr where
  /-- `NOP` (43_host_access.md R160); `a`, `d` ignored. -/
  | nop (a : Len) (d : Byte)
  /-- `CRC_INIT` (40_crc_engine.md R94); `a`, `d` ignored. -/
  | crcInit (a : Len) (d : Byte)
  /-- `CRC_UPDATE d` (40_crc_engine.md R95); `a` ignored. -/
  | crcUpdate (a : Len) (d : Byte)
  /-- `RECV d`, `d` the station address (41_rtu_receive.md R110); `a` ignored. -/
  | recv (a : Len) (d : Byte)
  /-- `XMIT a, d`, `a` the envelope length, `d` the station address (42_rtu_transmit.md R140). -/
  | xmit (a : Len) (d : Byte)
  /-- `BUF_WR index, d` (43_host_access.md R161). -/
  | bufWr (index d : Byte)
  /-- `BUF_RD index` (43_host_access.md R162); `d` ignored. -/
  | bufRd (index d : Byte)
  /-- Reserved: `op` 5 with `a[8]` = 1 (43_host_access.md R164). -/
  | reserved5Hi (x d : Byte)
  /-- Reserved: `op` 6 with `a[8]` = 1 (43_host_access.md R164). -/
  | reserved6Hi (x d : Byte)
  /-- Reserved: `op` 7 (43_host_access.md R164). -/
  | reserved7 (a : Len) (d : Byte)
  /-- Function byte 0x01 (30_encoding.md R67). -/
  | fcReadCoils
  /-- Function byte 0x02 (30_encoding.md R67). -/
  | fcReadDiscreteInputs
  /-- Function byte 0x03 (30_encoding.md R67). -/
  | fcReadHoldingRegisters
  /-- Function byte 0x04 (30_encoding.md R67). -/
  | fcReadInputRegisters
  /-- Function byte 0x05 (30_encoding.md R67). -/
  | fcWriteSingleCoil
  /-- Function byte 0x06 (30_encoding.md R67). -/
  | fcWriteSingleHoldingRegister
  /-- Function byte 0x0F (30_encoding.md R67). -/
  | fcWriteMultipleCoils
  /-- Function byte 0x10 (30_encoding.md R67). -/
  | fcWriteMultipleHoldingRegisters
  /-- Any other function byte (30_encoding.md R67, R70). -/
  | fcOther (fc : Byte)
  deriving DecidableEq, Repr

end Sys2Proof
end

