-- ==== Sys2Proof/Decode.lean ====
section
/-! DEFINITION. Decoding and encoding of the two instruction spaces (30_encoding.md R61, R62, R67). -/

namespace Sys2Proof

/-- `CW[19:17]` (30_encoding.md R61). -/
def cmdOp (cw : CmdWord) : BitVec 3 := cw.extractLsb' 17 3
/-- `CW[16:8]` (30_encoding.md R61). -/
def cmdA (cw : CmdWord) : Len := cw.extractLsb' 8 9
/-- `a[8]`, that is `CW[16]` (30_encoding.md R62). -/
def cmdA8 (cw : CmdWord) : Bool := cw.getLsbD 16
/-- `a[7:0]`, that is `CW[15:8]` (30_encoding.md R62). -/
def cmdIndex (cw : CmdWord) : Byte := cw.extractLsb' 8 8
/-- `CW[7:0]` (30_encoding.md R61). -/
def cmdD (cw : CmdWord) : Byte := cw.extractLsb' 0 8

/-- The instruction of a command word: every 20-bit word has exactly one (30_encoding.md R62). -/
def decodeCommand (cw : CmdWord) : Instr :=
  if cmdOp cw = 0 then .nop (cmdA cw) (cmdD cw)
  else if cmdOp cw = 1 then .crcInit (cmdA cw) (cmdD cw)
  else if cmdOp cw = 2 then .crcUpdate (cmdA cw) (cmdD cw)
  else if cmdOp cw = 3 then .recv (cmdA cw) (cmdD cw)
  else if cmdOp cw = 4 then .xmit (cmdA cw) (cmdD cw)
  else if cmdOp cw = 5 then
    if cmdA8 cw then .reserved5Hi (cmdIndex cw) (cmdD cw) else .bufWr (cmdIndex cw) (cmdD cw)
  else if cmdOp cw = 6 then
    if cmdA8 cw then .reserved6Hi (cmdIndex cw) (cmdD cw) else .bufRd (cmdIndex cw) (cmdD cw)
  else .reserved7 (cmdA cw) (cmdD cw)

/-- The row of a function byte: the eight named codes first, then the default row (30_encoding.md R62,
R67). No function byte is illegal to the framer (R70). -/
def decodeFunction (fc : Byte) : Instr :=
  if fc = 0x01 then .fcReadCoils
  else if fc = 0x02 then .fcReadDiscreteInputs
  else if fc = 0x03 then .fcReadHoldingRegisters
  else if fc = 0x04 then .fcReadInputRegisters
  else if fc = 0x05 then .fcWriteSingleCoil
  else if fc = 0x06 then .fcWriteSingleHoldingRegister
  else if fc = 0x0F then .fcWriteMultipleCoils
  else if fc = 0x10 then .fcWriteMultipleHoldingRegisters
  else .fcOther fc

/-- The decoder, over both spaces. -/
def decode : CodeWord → Instr
  | .command cw => decodeCommand cw
  | .function fc => decodeFunction fc

/-- Why a string of bytes is no encoded instruction. -/
inductive DecodeError where
  /-- Neither one byte (a function byte) nor three (a command word). -/
  | wrongLength (n : Nat)
  /-- Bits 23:20 of the three bytes are not zero: a command word has 20 bits (30_encoding.md R61). -/
  | bitsAboveCommandWord
  deriving DecidableEq, Repr

/-- The decoder on bytes: one byte is a function byte, three bytes are a command word, least significant
byte first. -/
def decodeBytes : List Byte → Except DecodeError Instr
  | [fc] => .ok (decode (.function fc))
  | [b0, b1, b2] =>
    if b2.extractLsb' 4 4 = 0 then .ok (decode (.command (b2.extractLsb' 0 4 ++ b1 ++ b0)))
    else .error .bitsAboveCommandWord
  | bs => .error (.wrongLength bs.length)

/-- The instruction read from a row's word: a row of at most 16 bits is a wire row, whose word is the
function byte (log 15); any wider row is a command word in three bytes. -/
def decodeTableWord (nbits w : Nat) : Option Instr :=
  (decodeBytes
    (if nbits ≤ 16 then [BitVec.ofNat 8 w]
     else [BitVec.ofNat 8 w, BitVec.ofNat 8 (w / 256), BitVec.ofNat 8 (w / 65536)])).toOption

/-- A command word from its three fields (30_encoding.md R61). -/
def packCommand (op : BitVec 3) (a : Len) (d : Byte) : CmdWord := op ++ a ++ d

/-- A 9-bit operand from bit 8 and bits 7:0 (30_encoding.md R61, R62). -/
def packA (a8 : BitVec 1) (low : Byte) : Len := a8 ++ low

/-- The encoder, from the tables of 30_encoding.md R62 and R67. -/
def encode : Instr → CodeWord
  | .nop a d => .command (packCommand 0 a d)
  | .crcInit a d => .command (packCommand 1 a d)
  | .crcUpdate a d => .command (packCommand 2 a d)
  | .recv a d => .command (packCommand 3 a d)
  | .xmit a d => .command (packCommand 4 a d)
  | .bufWr i d => .command (packCommand 5 (packA 0 i) d)
  | .bufRd i d => .command (packCommand 6 (packA 0 i) d)
  | .reserved5Hi x d => .command (packCommand 5 (packA 1 x) d)
  | .reserved6Hi x d => .command (packCommand 6 (packA 1 x) d)
  | .reserved7 a d => .command (packCommand 7 a d)
  | .fcReadCoils => .function 0x01
  | .fcReadDiscreteInputs => .function 0x02
  | .fcReadHoldingRegisters => .function 0x03
  | .fcReadInputRegisters => .function 0x04
  | .fcWriteSingleCoil => .function 0x05
  | .fcWriteSingleHoldingRegister => .function 0x06
  | .fcWriteMultipleCoils => .function 0x0F
  | .fcWriteMultipleHoldingRegisters => .function 0x10
  | .fcOther fc => .function fc

/-- The `match` and `mask` of an instruction's row in spec/opcode_table.json. -/
def tableRow : Instr → CodeWord × CodeWord
  | .nop _ _ => (.command 0x00000, .command 0xE0000)
  | .crcInit _ _ => (.command 0x20000, .command 0xE0000)
  | .crcUpdate _ _ => (.command 0x40000, .command 0xE0000)
  | .recv _ _ => (.command 0x60000, .command 0xE0000)
  | .xmit _ _ => (.command 0x80000, .command 0xE0000)
  | .bufWr _ _ => (.command 0xA0000, .command 0xF0000)
  | .bufRd _ _ => (.command 0xC0000, .command 0xF0000)
  | .reserved5Hi _ _ => (.command 0xB0000, .command 0xF0000)
  | .reserved6Hi _ _ => (.command 0xD0000, .command 0xF0000)
  | .reserved7 _ _ => (.command 0xE0000, .command 0xE0000)
  | .fcReadCoils => (.function 0x01, .function 0xFF)
  | .fcReadDiscreteInputs => (.function 0x02, .function 0xFF)
  | .fcReadHoldingRegisters => (.function 0x03, .function 0xFF)
  | .fcReadInputRegisters => (.function 0x04, .function 0xFF)
  | .fcWriteSingleCoil => (.function 0x05, .function 0xFF)
  | .fcWriteSingleHoldingRegister => (.function 0x06, .function 0xFF)
  | .fcWriteMultipleCoils => (.function 0x0F, .function 0xFF)
  | .fcWriteMultipleHoldingRegisters => (.function 0x10, .function 0xFF)
  | .fcOther _ => (.function 0x00, .function 0x00)

/-- Whether a word matches a row: same space, and equal to `match` under `mask`. -/
def rowMatches (row : CodeWord × CodeWord) (w : CodeWord) : Bool :=
  match row, w with
  | (.command m, .command k), .command cw => cw &&& k == m
  | (.function m, .function k), .function fc => fc &&& k == m
  | _, _ => false

/-- The `match`, `mask` pairs of the ten command rows of spec/opcode_table.json, in its order. -/
def commandRows : List (CmdWord × CmdWord) :=
  [(0x00000, 0xE0000), (0x20000, 0xE0000), (0x40000, 0xE0000), (0x60000, 0xE0000), (0x80000, 0xE0000),
   (0xA0000, 0xF0000), (0xC0000, 0xF0000), (0xB0000, 0xF0000), (0xD0000, 0xF0000), (0xE0000, 0xE0000)]

end Sys2Proof
end

