-- ==== Sys2Proof/Config.lean ====
section
/-! DEFINITION. The parameters of 00_scope.md R3 and R4, and the one free value. -/

namespace Sys2Proof.Config

/-- `CAP`: the capacity of the PDU buffer in bytes (R3). -/
def cap : Nat := 256
/-- `POLY`: the reflected CRC-16 polynomial (R3). -/
def poly : Half := 0xA001
/-- `CRC_INIT`: the CRC seed (R3). -/
def crcSeed : Half := 0xFFFF
/-- `BITS_PER_BYTE_STEP` (R3). -/
def bitsPerByte : Nat := 8
/-- `PREFIX_LEN`: the first read (R3). -/
def prefixLen : Nat := 6
/-- `LEN_FIELD`: the payload-length byte of a variable frame (R3). -/
def lenField : Nat := 1
/-- `CRC_LEN`: the CRC bytes on the wire (R3). -/
def crcLen : Nat := 2
/-- `SIL_NUM`: numerator of the silence factor (R3). -/
def silNum : Nat := 36
/-- `SIL_DEN`: denominator of the silence factor (R3). -/
def silDen : Nat := 10
/-- `VAR_FC`: the function codes with a trailing variable payload (R4, decision D11; log 13). -/
def varFc : List Byte := [0x0F, 0x10]

/-- The value of the `n`-th read of a buffer byte that no rule has written since reset, and of
`buf_rdata` after a reset event: any value, a draw per read (93_implementation_defined.md U6). It has no
body, so nothing can be proved of it (log 1, log 2). -/
opaque freeByte : Nat → Byte

end Sys2Proof.Config
end

