-- ==== Sys2Proof/Machine/Operands.lean ====
section
/-! DEFINITION. The operand forms: slices, byte order, and the values assembled from frame bytes
(00_scope.md section 6; 20_memory.md R43; 30_encoding.md R63 to R69; 41_rtu_receive.md R119). -/

namespace Sys2Proof.Machine

/-- `c[7:0]` (00_scope.md section 6). -/
def lo8 (c : Half) : Byte := c.extractLsb' 0 8

/-- `c[15:8]` (00_scope.md section 6). -/
def hi8 (c : Half) : Byte := c.extractLsb' 8 8

/-- The little-endian byte pair, low byte first (00_scope.md section 6; 20_memory.md R43). -/
def le16 (c : Half) : List Byte := [lo8 c, hi8 c]

/-- `v[7:0]` of a 9-bit counter, the buffer index it stands for (`IDX[7:0]`, `TXLEN[7:0]`). -/
def lowIndex (v : Len) : Byte := v.extractLsb' 0 8

/-- `is_var(fc)`: the function code carries a trailing variable payload (30_encoding.md R66). -/
def isVar (fc : Byte) : Bool := Config.varFc.contains fc

/-- `frame_len(fc, L)`: the total length of a received frame (30_encoding.md R68). -/
def frameLen (fc l : Byte) : Nat := if isVar fc then 9 + l.toNat else 8

/-- `silence_us(ct) = floor(36 × ct / 10)`, which fits 18 bits (41_rtu_receive.md R119; log 13). -/
def silenceUs (ct : Half) : Micros := BitVec.ofNat 18 (Config.silNum * ct.toNat / Config.silDen)

end Sys2Proof.Machine
end

