-- ==== Sys2Proof/Machine/Crc.lean ====
section
/-! DEFINITION. The functions of the CRC engine (40_crc_engine.md R90 to R93). -/

namespace Sys2Proof.Machine

/-- `crc_bit(c)`: one shift/XOR step (R90). -/
def crcBit (c : Half) : Half := if c.getLsbD 0 then (c >>> 1) ^^^ Config.poly else c >>> 1

/-- `n` shift/XOR steps. -/
def crcBits : Nat → Half → Half
  | 0, c => c
  | n + 1, c => crcBits n (crcBit c)

/-- `crc_update(c, b)`: `b` enters the low byte, then eight steps (R91). -/
def crcUpdate (c : Half) (b : Byte) : Half := crcBits Config.bitsPerByte (c ^^^ b.setWidth 16)

/-- The fold of `crc_update` over a byte sequence from a given value (R93). -/
def crcFold (c : Half) (s : List Byte) : Half := s.foldl crcUpdate c

/-- `crc16(s)`: the fold from the seed (R93). -/
def crc16 (s : List Byte) : Half := crcFold Config.crcSeed s

/-- The table entry `T[i]` (R92). -/
def crcTable (i : Byte) : Half := crcUpdate (i.setWidth 16) 0

/-- The table form of `crc_update` (R92). -/
def crcUpdateByTable (c : Half) (b : Byte) : Half := (c >>> 8) ^^^ crcTable (lo8 (c ^^^ b.setWidth 16))

end Sys2Proof.Machine
end

