-- ==== Sys2Proof/Machine/State.lean ====
section
/-! DEFINITION. The state of MBRTU (10_state.md R10 to R29), plain data, and its value after reset. -/

namespace Sys2Proof.Machine

/-- The value of `STAGE`, the sequencer register (10_state.md R15). -/
inductive Stage where
  | idle | rxPrefix | rxLen | rxTail | rxCheck | rxSilence | txCrc | txSend
  deriving DecidableEq, Repr

/-- The value of `STATUS` (10_state.md R19). Code 7 is never produced
(93_implementation_defined.md U14). -/
inductive Status where
  | none | ok | failRead | failCrc | failAddr | failCap | failWrite
  deriving DecidableEq, Repr

/-- A memory as (address, byte) pairs; the canonical form is `Memory.wf` (Sys2Proof/Machine/Ops.lean). -/
abbrev Memory := List Host.Cell

/-- The transport's answer to a byte request (10_state.md R21): a byte, or the end of the whole read
with a failure. -/
inductive RxAnswer where
  | byte (b : Byte)
  | fail
  deriving DecidableEq, Repr

/-- The transport's answer to a byte offer (10_state.md R21). -/
inductive TxAnswer where
  | accept
  | fail
  deriving DecidableEq, Repr

/-- What else comes from outside before a step (10_state.md R21, R25; 70_reset_and_hazards.md R230). -/
inductive Signal where
  /-- Nothing: the agent whose turn it is moves. -/
  | quiet
  /-- The reset event. -/
  | reset
  /-- The transport drives a new character time `ct`. -/
  | charTime (ct : Half)
  /-- The transport drives a new availability level `avail`. -/
  | avail (level : Bool)
  deriving DecidableEq, Repr

/-- The agents outside the block as data (00_scope.md R5; log 5). No field is state of the block. -/
structure Env where
  /-- The command words the host will present, oldest first (10_state.md R22). -/
  hostCmds : List CmdWord
  /-- The transport's answers to byte requests, oldest first: the receive stream (20_memory.md R40). -/
  rxLine : List RxAnswer
  /-- The transport's answers to byte offers, oldest first (10_state.md R21). -/
  txLine : List TxAnswer
  /-- How many microsecond ticks will still find the framer waiting (41_rtu_receive.md R118). -/
  ticks : Nat
  /-- What comes before each of the next steps, oldest first; nothing comes once it is empty. -/
  signals : List Signal
  /-- The character time `ct` the transport drives now (00_scope.md R3). -/
  charTime : Half
  /-- The availability level `avail` the transport drives now (41_rtu_receive.md R115). -/
  avail : Bool
  /-- The bytes the transport has accepted, oldest first: the transmit stream (20_memory.md R40). -/
  txStream : List Byte
  deriving DecidableEq, Repr

/-- The machine. -/
structure State where
  /-- `CRC[15:0]` (10_state.md R11). -/
  crc : Half
  /-- `BUF[0..255]` (10_state.md R12). -/
  buf : Memory
  /-- `IDX[8:0]` (10_state.md R13). -/
  idx : Len
  /-- `REM[8:0]` (10_state.md R14). -/
  rem : Len
  /-- `STAGE[2:0]` (10_state.md R15). -/
  stage : Stage
  /-- `SID[7:0]` (10_state.md R16). -/
  sid : Byte
  /-- `TXLEN[8:0]` (10_state.md R17). -/
  txlen : Len
  /-- `SIL[17:0]` (10_state.md R18). -/
  sil : Micros
  /-- `STATUS[2:0]` (10_state.md R19). -/
  status : Status
  /-- `RXLEN[8:0]` (10_state.md R20). -/
  rxlen : Len
  /-- The output register `buf_rdata` (10_state.md R22, R28; 43_host_access.md R162). -/
  bufRdata : Byte
  /-- The output strobe `done` (10_state.md R23, R24): true in the state right after a completion. -/
  done : Bool
  /-- The model's own: how many free values have been drawn (log 3). -/
  draws : Nat
  /-- The model's own: the agents outside the block. -/
  env : Env
  deriving DecidableEq, Repr

/-- Why the machine faults. -/
inductive Fault where
  /-- Raised by the CRC append of `TX_CRC` when `TXLEN[7:0] + 1` is 256, an index `BUF` does not have
  (20_memory.md R47). Safe: no run from reset reaches it (10_state.md R29 (d); log 10). -/
  | outsideBuffer
  deriving DecidableEq, Repr

/-- Why the model refuses. -/
inductive Refusal where
  /-- Raised by `exec` for an instruction without a meaning; none is left. Safe. -/
  | notModelled (mnemonic : String)
  /-- Raised by every command executed while `STAGE != IDLE`: the single-owner rule (43_host_access.md
  R163; 93_implementation_defined.md U1 says refuse; log 4). Safe. -/
  | hostNotOwner
  /-- Raised by a function byte executed when no prefix has just ended: 41_rtu_receive.md R113 gives it
  an effect only then (log 6). Safe. -/
  | noFunctionByteDue
  deriving DecidableEq, Repr

/-- The outcome of a step or of a meaning. -/
abbrev Result := Host.Outcome State Fault Refusal

/-- Nothing outside has happened or is waiting; the levels are the model's choice (log 8). -/
def Env.quiet : Env :=
  { hostCmds := [], rxLine := [], txLine := [], ticks := 0, signals := [], charTime := 0, avail := false,
    txStream := [] }

/-- The machine right after reset (10_state.md R28): `BUF` unspecified, that is nothing written; `bufRdata`
unspecified, at the model's choice (log 2); `draws` the model's own (log 3). -/
def State.reset : State :=
  { crc := 0xFFFF, buf := [], idx := 0, rem := 0, stage := .idle, sid := 0, txlen := 0, sil := 0,
    status := .none, rxlen := 0, bufRdata := 0, done := false, draws := 0, env := Env.quiet }

end Sys2Proof.Machine
end

