-- ==== Sys2Proof/Machine/Flags.lean ====
section
/-! DEFINITION. The codes of `STAGE` and `STATUS`, and the flags derived from them (10_state.md R15, R19,
R24). -/

namespace Sys2Proof.Machine

/-- The 3-bit code of a stage (10_state.md R15). -/
def stageCode : Stage → BitVec 3
  | .idle => 0
  | .rxPrefix => 1
  | .rxLen => 2
  | .rxTail => 3
  | .rxCheck => 4
  | .rxSilence => 5
  | .txCrc => 6
  | .txSend => 7

/-- The 3-bit code of a status (10_state.md R19). -/
def statusCode : Status → BitVec 3
  | .none => 0
  | .ok => 1
  | .failRead => 2
  | .failCrc => 3
  | .failAddr => 4
  | .failCap => 5
  | .failWrite => 6

/-- `ok = (STATUS == OK)`, the document's `bool` (10_state.md R24). -/
def State.isOk (s : State) : Bool := s.status == .ok

/-- `busy = (STAGE != IDLE)` (10_state.md R24). -/
def State.busy (s : State) : Bool := s.stage != .idle

/-- `cmd_ready = (STAGE == IDLE)` (10_state.md R24). -/
def State.cmdReady (s : State) : Bool := s.stage == .idle

/-- The stages in which the framer requests bytes, `rx_ready` (10_state.md R21, R23). -/
def Stage.isRead : Stage → Bool
  | .rxPrefix | .rxLen | .rxTail => true
  | .idle | .rxCheck | .rxSilence | .txCrc | .txSend => false

/-- The stages of a receive (41_rtu_receive.md R111). -/
def Stage.isReceive : Stage → Bool
  | .rxPrefix | .rxLen | .rxTail | .rxCheck | .rxSilence => true
  | .idle | .txCrc | .txSend => false

/-- The stages of a transmit (42_rtu_transmit.md R141). -/
def Stage.isTransmit : Stage → Bool
  | .txCrc | .txSend => true
  | .idle | .rxPrefix | .rxLen | .rxTail | .rxCheck | .rxSilence => false

end Sys2Proof.Machine
end

