-- ==== Sys2Proof/Machine/Ops.lean ====
section
/-! DEFINITION. The named operations over the buffer and the registers, and the two endings of an
operation: `fail` (60_exceptions.md R203), this block's exception entry, and `complete_ok` (R204). -/

namespace Sys2Proof.Machine

/-- The byte listed at an address, if any: an unlisted address holds no value (10_state.md R28; log 1). -/
def lookup : Memory → Nat → Option Byte
  | [], _ => none
  | (k, v) :: m, a => if k = a then some v else lookup m a

/-- Write one byte, keeping the addresses strictly rising. -/
def store : Memory → Nat → Byte → Memory
  | [], a, b => [(a, b)]
  | (k, v) :: m, a, b =>
    if a < k then (a, b) :: (k, v) :: m
    else if a = k then (a, b) :: m
    else (k, v) :: store m a b

/-- Addresses strictly rising, from `low` on, all below `CAP`. -/
def risingFrom (low : Nat) : Memory → Bool
  | [] => true
  | (k, _) :: m => decide (low ≤ k) && decide (k < Config.cap) && risingFrom (k + 1) m

/-- The canonical form of `BUF`: strictly rising addresses, none outside 0..255 (10_state.md R12). -/
def Memory.wf (m : Memory) : Bool := risingFrom 0 m

/-- The model's read of one byte of `BUF`, for statements: nothing for a byte no rule has written. -/
def State.byteAt (s : State) (a : Nat) : Option Byte := lookup s.buf a

/-- `BUF[i] <- b` (00_scope.md section 6). -/
def State.writeByte (i b : Byte) (s : State) : State := { s with buf := store s.buf i.toNat b }

/-- `BUF[i]` (00_scope.md section 6): the byte last written there, or for a byte that no rule has written
since reset a fresh free value (93_implementation_defined.md U6; log 1). -/
def State.readByte (i : Byte) (s : State) : Byte × State :=
  match lookup s.buf i.toNat with
  | some b => (b, s)
  | none => (Config.freeByte s.draws, { s with draws := s.draws + 1 })

/-- `fail(kind)` (60_exceptions.md R203): the failure's kind in `STATUS`, the block idle, the `done`
event, and nothing else. -/
def State.fail (kind : Status) (s : State) : State :=
  { s with status := kind, stage := .idle, done := true }

/-- `complete_ok` (60_exceptions.md R204). -/
def State.completeOk (s : State) : State :=
  { s with
    status := .ok
    rxlen := if s.stage = .rxCheck ∨ s.stage = .rxSilence then s.idx - 2 else s.rxlen
    stage := .idle
    done := true }

/-- The `done` strobe falls: it lasts one step (10_state.md R23). -/
def State.clearDone (s : State) : State := { s with done := false }

/-- The host's word is taken off the command channel. -/
def State.withHostCmds (rest : List CmdWord) (s : State) : State :=
  { s with env := { s.env with hostCmds := rest } }

/-- The transport's answer to a byte request is consumed (20_memory.md R48: destructive). -/
def State.withRxLine (rest : List RxAnswer) (s : State) : State :=
  { s with env := { s.env with rxLine := rest } }

/-- The transport's answer to a byte offer is consumed. -/
def State.withTxLine (rest : List TxAnswer) (s : State) : State :=
  { s with env := { s.env with txLine := rest } }

/-- A tick is consumed. -/
def State.withTicks (n : Nat) (s : State) : State := { s with env := { s.env with ticks := n } }

/-- What came from outside before this step is past. -/
def State.withSignals (rest : List Signal) (s : State) : State :=
  { s with env := { s.env with signals := rest } }

/-- A command acts only in `IDLE` (43_host_access.md R163; 93_implementation_defined.md U1). -/
def whenIdle (s : State) (r : Result) : Result :=
  match s.stage with
  | .idle => r
  | .rxPrefix | .rxLen | .rxTail | .rxCheck | .rxSilence | .txCrc | .txSend => .refused .hostNotOwner

/-- The end of the prefix stage for a function code `fc` (41_rtu_receive.md R113, first case): the
length byte is next for a variable frame, the two CRC bytes for any other. It is due only when the
prefix has just ended, `RX_PREFIX` with `REM` at 0. -/
def endPrefix (fc : Byte) (s : State) : Result :=
  if s.stage = .rxPrefix ∧ s.rem = 0 then
    if isVar fc then .next { s with rem := 1, stage := .rxLen }
    else .next { s with rem := 2, stage := .rxTail }
  else .refused .noFunctionByteDue

/-- The reset event (70_reset_and_hazards.md R230, R231): every register at its reset value, `BUF` and
`buf_rdata` unspecified, no `done` event; the agents outside are as they were. DESIGN CHOICE (log 2): one free
value is drawn for `buf_rdata` at the event, and the output shows it at every read until a `BUF_RD`, where
93_implementation_defined.md U6 names a draw per read. -/
def resetEvent (s : State) : State :=
  { State.reset with bufRdata := Config.freeByte s.draws, draws := s.draws + 1, env := s.env }

end Sys2Proof.Machine
end

