-- ==== Sys2Proof/Machine/CrcEngine.lean ====
section
/-! DEFINITION. `CRC_INIT` and `CRC_UPDATE` (40_crc_engine.md R94, R95). -/

namespace Sys2Proof.Machine

/-- `CRC_INIT`: `CRC <- 0xFFFF` (R94). -/
def execCrcInit (_a : Len) (_d : Byte) (s : State) : Result :=
  whenIdle s (.next { s with crc := Config.crcSeed })

/-- `CRC_UPDATE d`: `CRC <- crc_update(CRC, d)` (R95). -/
def execCrcUpdate (_a : Len) (d : Byte) (s : State) : Result :=
  whenIdle s (.next { s with crc := crcUpdate s.crc d })

end Sys2Proof.Machine
end

