-- ==== Sys2Proof/Machine/FunctionCodes.lean ====
section
/-! DEFINITION. The function bytes: what each makes the framer do when the sixth byte of a frame is in
(41_rtu_receive.md R113; 30_encoding.md R66, R67). Which frame shape a byte selects is `is_var` of it;
what the host later answers is the host's. -/

namespace Sys2Proof.Machine

/-- Function byte 0x01. -/
def execFcReadCoils (s : State) : Result := endPrefix 0x01 s

/-- Function byte 0x02. -/
def execFcReadDiscreteInputs (s : State) : Result := endPrefix 0x02 s

/-- Function byte 0x03. -/
def execFcReadHoldingRegisters (s : State) : Result := endPrefix 0x03 s

/-- Function byte 0x04. -/
def execFcReadInputRegisters (s : State) : Result := endPrefix 0x04 s

/-- Function byte 0x05. -/
def execFcWriteSingleCoil (s : State) : Result := endPrefix 0x05 s

/-- Function byte 0x06. -/
def execFcWriteSingleHoldingRegister (s : State) : Result := endPrefix 0x06 s

/-- Function byte 0x0F. -/
def execFcWriteMultipleCoils (s : State) : Result := endPrefix 0x0F s

/-- Function byte 0x10. -/
def execFcWriteMultipleHoldingRegisters (s : State) : Result := endPrefix 0x10 s

/-- Any other function byte: received as a fixed frame (30_encoding.md R70). -/
def execFcOther (fc : Byte) (s : State) : Result := endPrefix fc s

end Sys2Proof.Machine
end

