-- ==== Sys2Proof/Machine/HostAccess.lean ====
section
/-! DEFINITION. `NOP`, `BUF_WR`, `BUF_RD` and the reserved command words (43_host_access.md). -/

namespace Sys2Proof.Machine

/-- `NOP`: no state changes (R160). -/
def execNop (_a : Len) (_d : Byte) (s : State) : Result := whenIdle s (.next s)

/-- `BUF_WR index, d` (R161). -/
def execBufWr (index d : Byte) (s : State) : Result := whenIdle s (.next (s.writeByte index d))

/-- `BUF_RD index` (R162): an unwritten byte reads as a free value. -/
def execBufRd (index _d : Byte) (s : State) : Result :=
  whenIdle s (.next { (s.readByte index).2 with bufRdata := (s.readByte index).1 })

/-- `op` 5 with `a[8]` = 1: accepted, no state changes (R164; log 9). -/
def execReserved5Hi (_x _d : Byte) (s : State) : Result := whenIdle s (.next s)

/-- `op` 6 with `a[8]` = 1: accepted, no state changes (R164; log 9). -/
def execReserved6Hi (_x _d : Byte) (s : State) : Result := whenIdle s (.next s)

/-- `op` 7: accepted, no state changes (R164; log 9). -/
def execReserved7 (_a : Len) (_d : Byte) (s : State) : Result := whenIdle s (.next s)

end Sys2Proof.Machine
end

