-- ==== Sys2Proof/Machine/Receive.lean ====
section
/-! DEFINITION. The receive side (41_rtu_receive.md): `RECV`, the checks and the silence interval. The
end of a read stage, which runs the function byte, is in Sys2Proof/Machine/Events.lean. -/

namespace Sys2Proof.Machine

/-- `RECV d` (R110). -/
def execRecv (_a : Len) (d : Byte) (s : State) : Result :=
  whenIdle s (.next { s with
    sid := d
    crc := Config.crcSeed
    idx := 0
    rem := BitVec.ofNat 9 Config.prefixLen
    status := .none
    rxlen := 0
    stage := .rxPrefix })

/-- The registers' part of a byte delivery (R112): the byte goes into the buffer and into the CRC. -/
def takeByte (b : Byte) (s : State) : State :=
  { s.writeByte (lowIndex s.idx) b with
    crc := crcUpdate s.crc b
    idx := s.idx + 1
    rem := s.rem - 1 }

/-- The end of the length stage (R113, second case): `l` is the byte just stored, and
`9 + l > 256` fails before a byte that would not fit is requested. -/
def endLength (l : Byte) (s : State) : State :=
  if Config.prefixLen + Config.lenField + l.toNat + Config.crcLen > Config.cap then s.fail .failCap
  else { s with rem := BitVec.ofNat 9 (l.toNat + Config.crcLen), stage := .rxTail }

/-- The end of the tail stage (R113, third case). -/
def endTail (s : State) : State := { s with stage := .rxCheck }

/-- A read failure (R114). -/
def readFailure (s : State) : State := s.fail .failRead

/-- Loading the silence counter (R117): `ct` is sampled now, once; no wait when the count is 0. -/
def startSilence (s : State) : State :=
  if silenceUs s.env.charTime = 0 then s.completeOk
  else { s with sil := silenceUs s.env.charTime, stage := .rxSilence }

/-- The CRC check, then the address check (R116). -/
def checkFrame (s : State) : State :=
  if s.crc ≠ 0 then s.fail .failCrc
  else if (s.readByte 0).1 ≠ s.sid then (s.readByte 0).2.fail .failAddr
  else startSilence (s.readByte 0).2

/-- A microsecond tick (R118): it counts in `RX_SILENCE` and changes nothing in any other stage. -/
def tick (s : State) : State :=
  match s.stage with
  | .rxSilence =>
    if s.sil - 1 = 0 then { s with sil := s.sil - 1 }.completeOk else { s with sil := s.sil - 1 }
  | .idle | .rxPrefix | .rxLen | .rxTail | .rxCheck | .txCrc | .txSend => s

end Sys2Proof.Machine
end

