-- ==== Sys2Proof/Machine/Transmit.lean ====
section
/-! DEFINITION. The transmit side (42_rtu_transmit.md): `XMIT`, the CRC stage and the send stage. -/

namespace Sys2Proof.Machine

/-- `XMIT a, d` (R140): a length that leaves no room for the CRC fails at once. -/
def execXmit (a : Len) (d : Byte) (s : State) : Result :=
  whenIdle s (.next (
    if a.toNat + Config.crcLen > Config.cap then
      { s with sid := d, txlen := a, status := .none }.fail .failCap
    else
      { s with
        sid := d
        txlen := a
        status := .none
        crc := Config.crcSeed
        idx := 0
        stage := .txCrc }))

/-- One envelope byte folded into the CRC (R142, first case). -/
def foldByte (s : State) : State :=
  { (s.readByte (lowIndex s.idx)).2 with
    crc := crcUpdate s.crc (s.readByte (lowIndex s.idx)).1
    idx := s.idx + 1 }

/-- The two CRC bytes appended, low byte first, in one step (R142, second case). The index
`TXLEN[7:0] + 1` must exist: see `Fault.outsideBuffer` (log 10). -/
def appendCrc (s : State) : Result :=
  if (lowIndex s.txlen).toNat + 1 < Config.cap then
    .next { (s.writeByte (lowIndex s.txlen) (lo8 s.crc)).writeByte (lowIndex s.txlen + 1) (hi8 s.crc) with
      idx := 0
      stage := .txSend }
  else .fault .outsideBuffer

/-- The CRC stage (R142). -/
def crcStage (s : State) : Result :=
  if s.idx.toNat < s.txlen.toNat then .next (foldByte s) else appendCrc s

/-- The registers' part of a byte acceptance: the byte offered goes onto the transmit stream (R143). -/
def sendByte (s : State) : State :=
  { (s.readByte (lowIndex s.idx)).2 with
    idx := s.idx + 1
    env := { s.env with txStream := s.env.txStream ++ [(s.readByte (lowIndex s.idx)).1] } }

/-- A byte acceptance (R143). -/
def byteAccepted (s : State) : State :=
  if (sendByte s).idx.toNat = s.txlen.toNat + Config.crcLen then (sendByte s).completeOk else sendByte s

/-- A write failure (R144). -/
def writeFailure (s : State) : State := s.fail .failWrite

end Sys2Proof.Machine
end

