-- ==== Sys2Proof/Machine/Dispatch.lean ====
section
/-! DEFINITION. The meaning of every instruction. -/

namespace Sys2Proof.Machine

def exec (i : Instr) (s : State) : Host.Outcome State Fault Refusal :=
  match i with
  | .nop a d => Sys2Proof.Machine.execNop a d s
  | .crcInit a d => Sys2Proof.Machine.execCrcInit a d s
  | .crcUpdate a d => Sys2Proof.Machine.execCrcUpdate a d s
  | .recv a d => Sys2Proof.Machine.execRecv a d s
  | .xmit a d => Sys2Proof.Machine.execXmit a d s
  | .bufWr index d => Sys2Proof.Machine.execBufWr index d s
  | .bufRd index d => Sys2Proof.Machine.execBufRd index d s
  | .reserved5Hi x d => Sys2Proof.Machine.execReserved5Hi x d s
  | .reserved6Hi x d => Sys2Proof.Machine.execReserved6Hi x d s
  | .reserved7 a d => Sys2Proof.Machine.execReserved7 a d s
  | .fcReadCoils => Sys2Proof.Machine.execFcReadCoils s
  | .fcReadDiscreteInputs => Sys2Proof.Machine.execFcReadDiscreteInputs s
  | .fcReadHoldingRegisters => Sys2Proof.Machine.execFcReadHoldingRegisters s
  | .fcReadInputRegisters => Sys2Proof.Machine.execFcReadInputRegisters s
  | .fcWriteSingleCoil => Sys2Proof.Machine.execFcWriteSingleCoil s
  | .fcWriteSingleHoldingRegister => Sys2Proof.Machine.execFcWriteSingleHoldingRegister s
  | .fcWriteMultipleCoils => Sys2Proof.Machine.execFcWriteMultipleCoils s
  | .fcWriteMultipleHoldingRegisters => Sys2Proof.Machine.execFcWriteMultipleHoldingRegisters s
  | .fcOther fc => Sys2Proof.Machine.execFcOther fc s

end Sys2Proof.Machine
end

