-- ==== Sys2Proof/Machine/Events.lean ====
section
/-! DEFINITION. The steps of the agents (00_scope.md R5): the host presenting a command word, the
transport answering, the tick, the framer's internal steps, reset, and a change of a level. -/

namespace Sys2Proof.Machine

/-- The function byte `BUF[1]`, fetched, decoded and run (41_rtu_receive.md R113, first case;
20_memory.md R52). -/
def runFunctionByte (s : State) : Result :=
  exec (decode (.function (s.readByte 1).1)) (s.readByte 1).2

/-- The end of a read stage (41_rtu_receive.md R113), due when `REM` is 0. The byte just stored is the
one before the index of the next byte (10_state.md R13). -/
def endOfRead (s : State) : Result :=
  match s.stage with
  | .rxPrefix => runFunctionByte s
  | .rxLen => .next (endLength (s.readByte (lowIndex (s.idx - 1))).1 (s.readByte (lowIndex (s.idx - 1))).2)
  | .rxTail => .next (endTail s)
  | .idle | .rxCheck | .rxSilence | .txCrc | .txSend => .next s

/-- The event `rx_byte(b)` (41_rtu_receive.md R112): the end of the stage comes in the same step. -/
def rxByte (b : Byte) (s : State) : Result :=
  if (takeByte b s).rem = 0 then endOfRead (takeByte b s) else .next (takeByte b s)

/-- A read stage: the framer requests a byte while `REM > 0` (10_state.md R21) and the transport answers
or lets it wait. With `REM` at 0, where no run stops, the end of the stage is what is left to do
(log 6). -/
def readStage (s : State) : Result :=
  if s.rem = 0 then endOfRead s
  else
    match s.env.rxLine with
    | [] => .next s
    | .byte b :: rest => rxByte b (s.withRxLine rest)
    | .fail :: rest => .next (readFailure (s.withRxLine rest))

/-- `TX_SEND`: the framer offers `BUF[IDX]` and the transport answers or lets it wait
(42_rtu_transmit.md R143, R144). -/
def sendStage (s : State) : Result :=
  match s.env.txLine with
  | [] => .next s
  | .accept :: rest => .next (byteAccepted (s.withTxLine rest))
  | .fail :: rest => .next (writeFailure (s.withTxLine rest))

/-- `RX_SILENCE`: a tick or a wait (41_rtu_receive.md R118). -/
def silenceStage (s : State) : Result :=
  match s.env.ticks with
  | 0 => .next s
  | n + 1 => .next (tick (s.withTicks n))

/-- `IDLE`: the host's next command word is accepted, decoded and run (30_encoding.md R60), or the block
waits for one. -/
def idleStage (s : State) : Result :=
  match s.env.hostCmds with
  | [] => .next s
  | cw :: rest => exec (decode (.command cw)) (s.withHostCmds rest)

/-- One step of the agent whose turn it is: the stage alone decides (41_rtu_receive.md R111,
42_rtu_transmit.md R141). Where that agent has nothing to give, the block waits: it has no step of its
own out of a waiting stage (70_reset_and_hazards.md R244; log 11). -/
def agentStep (s : State) : Result :=
  match s.stage with
  | .idle => idleStage s
  | .rxPrefix | .rxLen | .rxTail => readStage s
  | .rxCheck => .next (checkFrame s)
  | .rxSilence => silenceStage s
  | .txCrc => crcStage s
  | .txSend => sendStage s

/-- One step: what comes from outside first, if anything (log 5); otherwise the agent whose turn it is. -/
def stepWith (s : State) : Result :=
  match s.env.signals with
  | [] => agentStep s
  | .quiet :: rest => agentStep (s.withSignals rest)
  | .reset :: rest => .next (resetEvent (s.withSignals rest))
  | .charTime ct :: rest => .next { s with env := { s.env with signals := rest, charTime := ct } }
  | .avail level :: rest => .next { s with env := { s.env with signals := rest, avail := level } }

/-- The host presents a command word to an idle block, with nothing else coming first. -/
def presentCommand (cw : CmdWord) (s : State) : State :=
  { s with stage := .idle, env := { s.env with signals := [], hostCmds := cw :: s.env.hostCmds } }

/-- A frame's first six bytes are in, `fc` the second of them, with nothing else coming first: the state
in which the end of the prefix stage is due (41_rtu_receive.md R113). -/
def presentFunctionByte (fc : Byte) (s : State) : State :=
  { s.writeByte 1 fc with
    stage := .rxPrefix, idx := BitVec.ofNat 9 Config.prefixLen, rem := 0, env := { s.env with signals := [] } }

end Sys2Proof.Machine
end

