-- ==== Sys2Proof/Machine/Step.lean ====
section
/-! DEFINITION. The step function, and where it fetches its next instruction. -/

namespace Sys2Proof.Machine

/-- One step of the machine: the `done` strobe of the step before falls, then one event happens. -/
def step (s : State) : Host.Outcome State Fault Refusal := stepWith s.clearDone

/-- `s` with the instruction placed where `step` fetches its next one (log 7): a function byte as `BUF[1]`
of a frame whose prefix has just ended, a command word on the host's channel with the block idle. A
number that is no 20-bit word is placed nowhere, as `decodeTableWord` refuses it. -/
def State.withFetchWord (s : State) (nbits w : Nat) : State :=
  if nbits ≤ 16 then presentFunctionByte (BitVec.ofNat 8 w) s
  else if w < 1048576 then presentCommand (BitVec.ofNat 20 w) s
  else s

end Sys2Proof.Machine
end

