-- ==== Sys2Proof/Machine/Ports.lean ====
section
/-! DEFINITION. The outputs (10_state.md R24) and one clock cycle at the port list (10_state.md R23): the
pins of a cycle offer the agents' events to one step (log 16). -/

namespace Sys2Proof.Machine

/-- `CRC_VALUE`: the output `crc_value` (40_crc_engine.md R96). -/
def State.crcValue (s : State) : Half := s.crc

/-- The output `rx_len` (10_state.md R24). -/
def State.rxLenOut (s : State) : Len := s.rxlen

/-- The output `status` (10_state.md R24). -/
def State.statusOut (s : State) : BitVec 3 := statusCode s.status

/-- `AVAIL`: the output `avail_out`, the transport's level in every stage (41_rtu_receive.md R115). -/
def State.availOut (s : State) : Bool := s.env.avail

/-- `rx_ready`: the framer requests a byte (10_state.md R23). -/
def State.rxReady (s : State) : Bool := s.stage.isRead

/-- `tx_valid`: the framer offers a byte (10_state.md R23). -/
def State.txValid (s : State) : Bool := s.stage == .txSend

/-- `tx_data`: `BUF[IDX]` (10_state.md R23). DESIGN CHOICE (log 16): a byte that nothing has written shows as
the next free value to be drawn, without drawing it, so that the pin holds while the byte is offered and
shows what its acceptance in the same cycle sends. The pin then equals the next drawn read of any byte. -/
def State.txData (s : State) : Byte := (s.readByte (lowIndex s.idx)).1

/-- The input pins of one cycle (10_state.md R23). -/
structure PortIn where
  rst : Bool
  cmdValid : Bool
  cmdWord : CmdWord
  rxValid : Bool
  rxData : Byte
  rxFail : Bool
  txReady : Bool
  txFail : Bool
  charTimeUs : Half
  tickUs : Bool
  deriving DecidableEq, Repr

/-- The output pins of one cycle (10_state.md R23). -/
structure PortOut where
  cmdReady : Bool
  busy : Bool
  done : Bool
  status : BitVec 3
  rxLen : Len
  crcValue : Half
  availOut : Bool
  bufRdata : Byte
  rxReady : Bool
  txValid : Bool
  txData : Byte
  deriving DecidableEq, Repr

/-- The transport's answer to a byte request in a cycle: `rx_fail` has priority over `rx_valid`
(10_state.md R23; 60_exceptions.md R202). -/
def rxAnswers (p : PortIn) : List RxAnswer :=
  if p.rxFail then [.fail] else if p.rxValid then [.byte p.rxData] else []

/-- The transport's answer to a byte offer in a cycle: `tx_fail` has priority over `tx_ready`
(10_state.md R23; 60_exceptions.md R202). -/
def txAnswers (p : PortIn) : List TxAnswer :=
  if p.txFail then [.fail] else if p.txReady then [.accept] else []

/-- The state with one cycle's pins as all that the agents outside offer. What a step does not take is
gone with the cycle: a word or a byte not accepted has no effect unless it is presented again
(43_host_access.md R163; 10_state.md R21). -/
def State.drive (p : PortIn) (s : State) : State :=
  { s with env := { s.env with
      hostCmds := if p.cmdValid then [p.cmdWord] else []
      rxLine := rxAnswers p
      txLine := txAnswers p
      ticks := if p.tickUs then 1 else 0
      signals := if p.rst then [.reset] else []
      charTime := p.charTimeUs
      avail := p.rxValid } }

/-- One clock cycle: every register changes as one step on the cycle's pins says. -/
def cycle (p : PortIn) (s : State) : Result := step (s.drive p)

/-- The output pins of a cycle, `avail_out` combinational from `rx_valid` (10_state.md R23). -/
def State.ports (p : PortIn) (s : State) : PortOut :=
  { cmdReady := s.cmdReady, busy := s.busy, done := s.done, status := s.statusOut, rxLen := s.rxLenOut,
    crcValue := s.crcValue, availOut := (s.drive p).availOut, bufRdata := s.bufRdata, rxReady := s.rxReady,
    txValid := s.txValid, txData := s.txData }

end Sys2Proof.Machine
end

