-- ==== Sys2Proof/WellFormed.lean ====
section
/-! DEFINITION. Which terms of `Instr` an encoding stands for. -/

namespace Sys2Proof

/-- The eight function bytes that have a row of their own (30_encoding.md R67). -/
def namedFunctionBytes : List Byte := [0x01, 0x02, 0x03, 0x04, 0x05, 0x06, 0x0F, 0x10]

/-- A term is well formed unless it is the default row `FC_OTHER` at a byte that has a row of its own
(30_encoding.md R62: the default row "applies when no other wire row matches"). Every operand of every
command word may hold any value (30_encoding.md R61, R71). -/
def Instr.wf : Instr → Bool
  | .fcOther fc => !namedFunctionBytes.contains fc
  | .nop _ _ | .crcInit _ _ | .crcUpdate _ _ | .recv _ _ | .xmit _ _ | .bufWr _ _ | .bufRd _ _
  | .reserved5Hi _ _ | .reserved6Hi _ _ | .reserved7 _ _ | .fcReadCoils | .fcReadDiscreteInputs
  | .fcReadHoldingRegisters | .fcReadInputRegisters | .fcWriteSingleCoil
  | .fcWriteSingleHoldingRegister | .fcWriteMultipleCoils | .fcWriteMultipleHoldingRegisters => true

end Sys2Proof
end

