-- ==== Sys2Proof/Safety.lean ====
section
/-! DEFINITION. What the statements speak of: runs, reachable states, the invariant of 10_state.md R29 with
what makes it inductive, the stage tables (41_rtu_receive.md R111, 42_rtu_transmit.md R141) and the outcome
tables of a whole receive and a whole transmit (41_rtu_receive.md R120, 42_rtu_transmit.md R145). -/

namespace Sys2Proof.Machine

/-- `n` steps, stopping at the first fault or refusal. -/
def steps : Nat → State → Result
  | 0, s => .next s
  | n + 1, s =>
    match step s with
    | .next t => steps n t
    | .fault f => .fault f
    | .refused r => .refused r

/-- The states of every run from reset, whatever the agents outside do: between any two steps the
environment may be replaced by any other. -/
inductive Reachable : State → Prop where
  | reset : Reachable State.reset
  | outside (s : State) (e : Env) : Reachable s → Reachable { s with env := e }
  | step (s t : State) : Reachable s → step s = .next t → Reachable t

/-- The first `n` bytes of `BUF`; a byte nothing has written counts as 0 here, so statements that use this
also say `Written`. -/
def State.firstBytes (s : State) (n : Nat) : List Byte := (List.range n).map fun i => (s.byteAt i).getD 0

/-- The first `n` bytes of `BUF` have been written. -/
abbrev State.Written (s : State) (n : Nat) : Prop := ∀ i < n, (s.byteAt i).isSome

/-- The function code of the frame being received, `BUF[1]`. -/
def State.functionByte (s : State) : Byte := (s.byteAt 1).getD 0

/-- The length of the frame being received, from `BUF[1]` and `BUF[6]` (30_encoding.md R68). -/
def State.expectedLen (s : State) : Nat := frameLen s.functionByte ((s.byteAt 6).getD 0)

/-- What holds of the bytes received so far: all stored, all folded into `CRC`, no result yet. -/
abbrev State.Receiving (s : State) : Prop :=
  s.Written s.idx.toNat ∧ s.crc = crc16 (s.firstBytes s.idx.toNat) ∧ s.rxlen = 0

/-- The invariant of every run: 10_state.md R29 and, with it, that the buffer is in canonical form, that
the bytes counted by `IDX` are in the buffer and in `CRC`, that the frame's shape is the one its function
and length bytes select, and that `done` is seen only in `IDLE`. -/
structure State.Inv (s : State) : Prop where
  bufCanonical : Memory.wf s.buf = true
  idxInside : s.idx.toNat ≤ 256
  busyHasNoResult : s.stage ≠ .idle → s.status = .none ∧ s.done = false
  rxPrefix : s.stage = .rxPrefix → s.idx.toNat + s.rem.toNat = 6 ∧ 0 < s.rem.toNat ∧ s.Receiving
  rxLen : s.stage = .rxLen →
    s.idx.toNat = 6 ∧ s.rem.toNat = 1 ∧ isVar s.functionByte = true ∧ s.Receiving
  rxTail : s.stage = .rxTail →
    s.idx.toNat + s.rem.toNat = s.expectedLen ∧ s.expectedLen ≤ 256 ∧ 0 < s.rem.toNat ∧
    6 ≤ s.idx.toNat ∧ (isVar s.functionByte = true → 7 ≤ s.idx.toNat) ∧ s.Receiving
  rxCheck : s.stage = .rxCheck →
    s.idx.toNat = s.expectedLen ∧ s.expectedLen ≤ 256 ∧ s.rem = 0 ∧ s.Receiving
  rxSilence : s.stage = .rxSilence →
    s.idx.toNat = s.expectedLen ∧ s.expectedLen ≤ 256 ∧ s.rem = 0 ∧ s.Receiving ∧
    s.crc = 0 ∧ s.byteAt 0 = some s.sid ∧ 0 < s.sil.toNat
  txCrc : s.stage = .txCrc → s.idx.toNat ≤ s.txlen.toNat ∧ s.txlen.toNat ≤ 254
  txSend : s.stage = .txSend →
    s.idx.toNat < s.txlen.toNat + 2 ∧ s.txlen.toNat ≤ 254 ∧
    s.byteAt s.txlen.toNat = some (lo8 s.crc) ∧ s.byteAt (s.txlen.toNat + 1) = some (hi8 s.crc)

/-- Nothing comes from outside before this step: the agent whose turn it is moves. -/
abbrev State.Undisturbed (s : State) : Prop := s.env.signals = []

/-- The rows of the stage tables (41_rtu_receive.md R111, 42_rtu_transmit.md R141) that leave a stage other
than `IDLE`, and the wait: `t` is the state one step after `s`. A row that ends in `IDLE` names the
status. -/
def stageRow (s t : State) : Prop :=
  match s.stage with
  | .idle => True
  | .rxPrefix =>
    t.stage = .rxPrefix ∨
    (t.stage = .rxLen ∧ s.rem = 1 ∧ t.rem = 1 ∧ isVar t.functionByte = true) ∨
    (t.stage = .rxTail ∧ s.rem = 1 ∧ t.rem = 2 ∧ isVar t.functionByte = false) ∨
    (t.stage = .idle ∧ t.status = .failRead)
  | .rxLen =>
    t.stage = .rxLen ∨
    (t.stage = .rxTail ∧ s.rem = 1 ∧ t.expectedLen ≤ 256) ∨
    (t.stage = .idle ∧ t.status = .failCap ∧ s.rem = 1 ∧ 256 < t.expectedLen) ∨
    (t.stage = .idle ∧ t.status = .failRead)
  | .rxTail =>
    t.stage = .rxTail ∨ (t.stage = .rxCheck ∧ s.rem = 1) ∨ (t.stage = .idle ∧ t.status = .failRead)
  | .rxCheck =>
    (t.stage = .idle ∧ t.status = .failCrc ∧ s.crc ≠ 0) ∨
    (t.stage = .idle ∧ t.status = .failAddr ∧ s.crc = 0 ∧ s.byteAt 0 ≠ some s.sid) ∨
    (t.stage = .rxSilence ∧ s.crc = 0 ∧ s.byteAt 0 = some s.sid ∧ silenceUs s.env.charTime ≠ 0) ∨
    (t.stage = .idle ∧ t.status = .ok ∧ s.crc = 0 ∧ s.byteAt 0 = some s.sid ∧
      silenceUs s.env.charTime = 0)
  | .rxSilence => t.stage = .rxSilence ∨ (t.stage = .idle ∧ t.status = .ok ∧ s.sil = 1)
  | .txCrc => (t.stage = .txCrc ∧ s.idx.toNat < s.txlen.toNat) ∨ (t.stage = .txSend ∧ s.idx = s.txlen)
  | .txSend =>
    t.stage = .txSend ∨ (t.stage = .idle ∧ t.status = .ok ∧ s.idx.toNat + 1 = s.txlen.toNat + 2) ∨
    (t.stage = .idle ∧ t.status = .failWrite)

/-- How a whole receive ends: a row of the table of 41_rtu_receive.md R120. -/
structure RecvOutcome where
  status : Status
  consumed : Nat
  rxlen : Nat
  waits : Bool
  deriving DecidableEq, Repr

/-- The table of 41_rtu_receive.md R120, for a transport that delivers the bytes `r` and then, if the frame
asks for more, fails. -/
def recvOutcome (sid : Byte) (r : List Byte) : RecvOutcome :=
  if r.length < 6 then ⟨.failRead, r.length, 0, false⟩
  else if isVar (r.getD 1 0) && r.length == 6 then ⟨.failRead, 6, 0, false⟩
  else if isVar (r.getD 1 0) && decide (247 < (r.getD 6 0).toNat) then ⟨.failCap, 7, 0, false⟩
  else if r.length < frameLen (r.getD 1 0) (r.getD 6 0) then ⟨.failRead, r.length, 0, false⟩
  else if crc16 (r.take (frameLen (r.getD 1 0) (r.getD 6 0))) ≠ 0 then
    ⟨.failCrc, frameLen (r.getD 1 0) (r.getD 6 0), 0, false⟩
  else if r.getD 0 0 ≠ sid then ⟨.failAddr, frameLen (r.getD 1 0) (r.getD 6 0), 0, false⟩
  else ⟨.ok, frameLen (r.getD 1 0) (r.getD 6 0), frameLen (r.getD 1 0) (r.getD 6 0) - 2, true⟩

end Sys2Proof.Machine
end

