-- ==== Sys2Proof/Certificates/Slice0/Obligations.lean ====
section
/-! DEFINITION. The statements for the provers. Each docstring cites the rule of spec/ it formalises, or
names the log entry it rests on. -/

open Sys2Proof Sys2Proof.Machine

/-! ## Encoding -/

/-- 30_encoding.md R61, R62, R67: the encoder and the decoder agree on every well-formed instruction, with
every operand at every value. -/
def Obligations.DecodingAnEncodedInstructionGivesItBack : Prop :=
  ∀ i : Instr, i.wf = true → decode (encode i) = i

/-- 30_encoding.md R61, R62, R66: the other direction; no bit of a word is lost, and what is decoded is
well formed. For the rows with ignored operand bits (`NOP`, `CRC_INIT`, `RECV` and others) this is the
model's choice of log 12 (DESIGN CHOICE): the bits are kept in the constructors. -/
def Obligations.EncodingADecodedWordGivesItBack : Prop :=
  ∀ w : CodeWord, encode (decode w) = w ∧ (decode w).wf = true

/-- 30_encoding.md R62: the command rows "together match every 20-bit word exactly once", and the decoder
answers the row that matches. -/
def Obligations.EveryCommandWordMatchesExactlyOneRow : Prop :=
  ∀ cw : CmdWord,
    (commandRows.filter fun row => cw &&& row.2 == row.1).length = 1 ∧
    rowMatches (tableRow (decode (.command cw))) (.command cw) = true

/-- 30_encoding.md R62, R67, R73: words written out from the encoding tables; and 0x100000, which has a bit
above `CW[19]`: that three bytes with such a bit are refused is the model's choice of log 15 (DEDUCED). -/
def Obligations.SampleWordsDecodeToTheirInstructions : Prop :=
  decodeTableWord 24 0x1FFFF = some (.nop 0x1FF 0xFF) ∧
  decodeTableWord 24 0x20000 = some (.crcInit 0 0) ∧
  decodeTableWord 24 0x40031 = some (.crcUpdate 0 0x31) ∧
  decodeTableWord 24 0x60011 = some (.recv 0 0x11) ∧
  decodeTableWord 24 0x80411 = some (.xmit 4 0x11) ∧
  decodeTableWord 24 0x8FF11 = some (.xmit 255 0x11) ∧
  decodeTableWord 24 0xA0201 = some (.bufWr 2 0x01) ∧
  decodeTableWord 24 0xC0100 = some (.bufRd 1 0) ∧
  decodeTableWord 24 0xB0000 = some (.reserved5Hi 0 0) ∧
  decodeTableWord 24 0xD0000 = some (.reserved6Hi 0 0) ∧
  decodeTableWord 24 0xE0000 = some (.reserved7 0 0) ∧
  decodeTableWord 24 0x100000 = none ∧
  decodeTableWord 8 0x0F = some .fcWriteMultipleCoils ∧
  decodeTableWord 8 0x90 = some (.fcOther 0x90)

/-- 30_encoding.md R66, R68: which function codes are variable, and the frame lengths. -/
def Obligations.FrameShapeIsChosenByTheFunctionCode : Prop :=
  (∀ fc : Byte, isVar fc = true ↔ fc = 0x0F ∨ fc = 0x10) ∧
  (isVar 0x8F = false ∧ isVar 0x90 = false) ∧
  ∀ fc l : Byte, (isVar fc = false → frameLen fc l = 8) ∧ (isVar fc = true → frameLen fc l = 9 + l.toNat)

/-! ## A step runs the decoded instruction -/

/-- 30_encoding.md R60, R61; 43_host_access.md R163: an idle block takes the host's next word and runs what
it decodes to. Around the meaning the step drops the `done` strobe and takes the word off the channel. -/
def Obligations.StepRunsTheDecodedCommand : Prop :=
  ∀ (s : State) (cw : CmdWord) (rest : List CmdWord),
    s.Undisturbed → s.stage = .idle → s.env.hostCmds = cw :: rest →
    step s = exec (decode (.command cw)) { s with done := false, env := { s.env with hostCmds := rest } }

/-- 41_rtu_receive.md R112, R113: the sixth byte of a frame is stored, and in the same step the function
byte `BUF[1]` is decoded and run. -/
def Obligations.StepRunsTheFunctionByte : Prop :=
  ∀ (s : State) (b fc : Byte) (rest : List RxAnswer),
    s.Undisturbed → s.stage = .rxPrefix → s.rem = 1 → s.env.rxLine = .byte b :: rest →
    (takeByte b s).byteAt 1 = some fc →
    step s = exec (decode (.function fc))
      (takeByte b { s with done := false, env := { s.env with rxLine := rest } })

/-- The model's own interface (log 7): an instruction placed by `withFetchWord` is the one the next step
runs. -/
def Obligations.FetchWordIsRunByTheNextStep : Prop :=
  (∀ (s : State) (w : Nat), w < 0x100000 →
    ∃ i, decodeTableWord 24 w = some i ∧
      step (s.withFetchWord 24 w) =
        exec i { s with stage := .idle, done := false, env := { s.env with signals := [] } }) ∧
  (∀ (s : State) (w : Nat), w < 0x100 →
    ∃ i, decodeTableWord 8 w = some i ∧
      step (s.withFetchWord 8 w) = exec i { s.withFetchWord 8 w with done := false })

/-! ## The CRC engine -/

/-- 40_crc_engine.md R90: one shift/XOR step; bit 15 of the shifted value is 0 and bit i is `c[i+1]`. -/
def Obligations.CrcBitShiftsRightAndFoldsThePolynomial : Prop :=
  ∀ c : Half,
    (c.getLsbD 0 = true → crcBit c = (c >>> 1) ^^^ 0xA001) ∧
    (c.getLsbD 0 = false → crcBit c = c >>> 1) ∧
    (c >>> 1).getLsbD 15 = false ∧ ∀ i, i < 15 → (c >>> 1).getLsbD i = c.getLsbD (i + 1)

/-- 40_crc_engine.md R91: the byte enters the low byte, then eight steps, with the worked example. -/
def Obligations.CrcUpdateIsEightBitSteps : Prop :=
  (∀ (c : Half) (b : Byte),
    crcUpdate c b =
      crcBit (crcBit (crcBit (crcBit (crcBit (crcBit (crcBit (crcBit (c ^^^ b.setWidth 16)))))))) ∧
    hi8 (c ^^^ b.setWidth 16) = hi8 c) ∧
  (List.range 9).map (fun n => crcBits n (0xFFFF ^^^ (0x11 : Byte).setWidth 16)) =
    [0xFFEE, 0x7FF7, 0x9FFA, 0x4FFD, 0x87FF, 0xE3FE, 0x71FF, 0x98FE, 0x4C7F]

/-- 40_crc_engine.md R92: the table form equals `crc_update` for every input; three entries; the high bytes
of the table are all distinct. The rule marks it as the spec's own inference ("derived: from rules R90 and
R91"). -/
def Obligations.CrcTableFormEqualsTheBitForm : Prop :=
  (∀ (c : Half) (b : Byte), crcUpdate c b = (c >>> 8) ^^^ crcTable (lo8 (c ^^^ b.setWidth 16))) ∧
  crcTable 0 = 0x0000 ∧ crcTable 1 = 0xC0C1 ∧ crcTable 255 = 0x4040 ∧
  ∀ i j : Byte, hi8 (crcTable i) = hi8 (crcTable j) → i = j

/-- 40_crc_engine.md R93: `crc16` is the fold from the seed, incremental, and the seed for no bytes. -/
def Obligations.Crc16IsTheIncrementalFold : Prop :=
  crc16 [] = 0xFFFF ∧
  (∀ (u : List Byte) (b : Byte), crc16 (u ++ [b]) = crcUpdate (crc16 u) b) ∧
  ∀ u v : List Byte, crc16 (u ++ v) = crcFold (crc16 u) v

/-- 40_crc_engine.md R97: the residue law, on sequences and on the register. -/
def Obligations.AppendingTheCrcLeavesResidueZero : Prop :=
  (∀ u : List Byte, crc16 (u ++ le16 (crc16 u)) = 0) ∧
  ∀ c : Half, crcUpdate (crcUpdate c (lo8 c)) (hi8 c) = 0

/-- 40_crc_engine.md R98: the converse, and with it: a frame passes the check exactly when its last two
bytes are the CRC of the rest. The rule marks it as the spec's own inference ("derived: from rule R92"). -/
def Obligations.ResidueZeroOnlyForTheFramesOwnCrc : Prop :=
  (∀ (c : Half) (x y : Byte), crcUpdate (crcUpdate c x) y = 0 ↔ x = lo8 c ∧ y = hi8 c) ∧
  ∀ (u : List Byte) (x y : Byte), crc16 (u ++ [x, y]) = 0 ↔ [x, y] = le16 (crc16 u)

/-- 40_crc_engine.md R99: the difference of two frames' CRCs is the fold of their difference from 0, which
is not zero for a single flipped bit; so a single flipped bit is always detected. The rule marks it as the
spec's own inference ("derived: from the linearity of rules R90, R91"). -/
def Obligations.SingleBitFlipFailsTheCrcCheck : Prop :=
  (∀ u v : List Byte, u.length = v.length →
    crc16 v = crc16 u ^^^ crcFold 0 (List.zipWith (· ^^^ ·) u v)) ∧
  (∀ n m j : Nat, j < 8 →
    crcFold 0 (List.replicate n 0 ++ [(1 : Byte) <<< j] ++ List.replicate m 0) ≠ 0) ∧
  ∀ (u w : List Byte) (b : Byte) (j : Nat), j < 8 → crc16 (u ++ [b] ++ w) = 0 →
    crc16 (u ++ [b ^^^ (1 : Byte) <<< j] ++ w) ≠ 0

/-- 40_crc_engine.md R95, corner case: for a fixed byte, the update is a bijection of the register. The rule
marks it as the spec's own inference. -/
def Obligations.CrcUpdateIsABijectionOfTheRegister : Prop :=
  Function.Bijective crcBit ∧ ∀ b : Byte, Function.Bijective fun c : Half => crcUpdate c b

/-- 40_crc_engine.md R95 says in passing that the byte 0x00 changes every register value but 0. By R90 and
R91 this is false of one value, 0xC001 (log 17): expected to fail. -/
def Obligations.ZeroByteChangesEveryNonzeroCrc : Prop :=
  ∀ c : Half, c ≠ 0 → crcUpdate c 0 ≠ c

/-! ## The command words -/

/-- 43_host_access.md R160. -/
def Obligations.NopChangesNothing : Prop :=
  (∀ (a : Len) (d : Byte), decode (.command (packCommand 0 a d)) = .nop a d) ∧
  (decode (.command 0x00000) = .nop 0 0 ∧ decode (.command 0x1FFFF) = .nop 0x1FF 0xFF) ∧
  ∀ (a : Len) (d : Byte) (s : State), s.stage = .idle → exec (.nop a d) s = .next s

/-- 40_crc_engine.md R94. -/
def Obligations.CrcInitLoadsTheSeed : Prop :=
  (∀ (a : Len) (d : Byte), decode (.command (packCommand 1 a d)) = .crcInit a d) ∧
  ∀ (a : Len) (d : Byte) (s : State), s.stage = .idle →
    exec (.crcInit a d) s = .next { s with crc := 0xFFFF } ∧
    exec (.crcInit a d) { s with crc := 0xFFFF } = .next { s with crc := 0xFFFF } ∧
    exec (.crcInit a d) State.reset = .next State.reset

/-- 40_crc_engine.md R95, without its remark on the byte 0x00; with its worked example. -/
def Obligations.CrcUpdateFoldsOneByte : Prop :=
  (∀ (a : Len) (d : Byte), decode (.command (packCommand 2 a d)) = .crcUpdate a d) ∧
  (∀ (a : Len) (d : Byte) (s : State), s.stage = .idle →
    exec (.crcUpdate a d) s = .next { s with crc := crcUpdate s.crc d }) ∧
  crcUpdate 0 0 = 0 ∧ crcUpdate 0xFFFF 0x11 = 0x4C7F ∧ crcUpdate 0x4C7F 0x01 = 0x20CC

/-- 41_rtu_receive.md R110. -/
def Obligations.RecvStartsAReceive : Prop :=
  (∀ (a : Len) (d : Byte), decode (.command (packCommand 3 a d)) = .recv a d) ∧
  ∀ (a : Len) (d : Byte) (s : State), s.stage = .idle →
    exec (.recv a d) s = .next { s with
      sid := d, crc := 0xFFFF, idx := 0, rem := 6, status := .none, rxlen := 0, stage := .rxPrefix }

/-- 42_rtu_transmit.md R140: the two cases at acceptance, which between them cover every length. -/
def Obligations.XmitStartsATransmitOrFailsOnCapacity : Prop :=
  (∀ (a : Len) (d : Byte), decode (.command (packCommand 4 a d)) = .xmit a d) ∧
  ∀ (a : Len) (d : Byte) (s : State), s.stage = .idle →
    (a.toNat ≤ 254 → exec (.xmit a d) s = .next { s with
      sid := d, txlen := a, status := .none, crc := 0xFFFF, idx := 0, stage := .txCrc }) ∧
    (254 < a.toNat → exec (.xmit a d) s = .next { s with
      sid := d, txlen := a, status := .failCap, stage := .idle, done := true })

/-- 43_host_access.md R161: the byte is written and nothing else changes. -/
def Obligations.BufWrWritesOneByte : Prop :=
  (∀ i d : Byte, decode (.command (packCommand 5 (packA 0 i) d)) = .bufWr i d) ∧
  ∀ (i d : Byte) (s : State), s.stage = .idle →
    ∃ m : Memory, exec (.bufWr i d) s = .next { s with buf := m } ∧
      ∀ t, exec (.bufWr i d) s = .next t →
        t.byteAt i.toNat = some d ∧ ∀ a, a ≠ i.toNat → t.byteAt a = s.byteAt a

/-- 43_host_access.md R162: a written byte is read into `buf_rdata` and nothing else changes. For a byte
that nothing has written, the model's choice of log 1: the read completes with a free value, whatever the
field `draws` holds. -/
def Obligations.BufRdReadsOneByte : Prop :=
  (∀ i d : Byte, decode (.command (packCommand 6 (packA 0 i) d)) = .bufRd i d) ∧
  ∀ (i d : Byte) (s : State), s.stage = .idle →
    (∀ b, s.byteAt i.toNat = some b → exec (.bufRd i d) s = .next { s with bufRdata := b }) ∧
    (s.byteAt i.toNat = none → exec (.bufRd i d) s =
      .next { s with bufRdata := Config.freeByte s.draws, draws := s.draws + 1 })

/-- 43_host_access.md R164: the block accepts a reserved word and changes no state (log 9). -/
def Obligations.ReservedWordsChangeNothing : Prop :=
  (∀ (a : Len) (d : Byte), decode (.command (packCommand 7 a d)) = .reserved7 a d) ∧
  (∀ x d : Byte, decode (.command (packCommand 5 (packA 1 x) d)) = .reserved5Hi x d ∧
    decode (.command (packCommand 6 (packA 1 x) d)) = .reserved6Hi x d) ∧
  ∀ (a : Len) (x d : Byte) (s : State), s.stage = .idle →
    exec (.reserved5Hi x d) s = .next s ∧ exec (.reserved6Hi x d) s = .next s ∧
    exec (.reserved7 a d) s = .next s

/-- The model's choice of log 4, after 93_implementation_defined.md U1: a command executed while an
operation runs is refused. -/
def Obligations.CommandsAreRefusedWhileBusy : Prop :=
  ∀ (cw : CmdWord) (s : State), s.stage ≠ .idle → exec (decode (.command cw)) s = .refused .hostNotOwner

/-- The frame of the commands that store nothing: every byte of the buffer, and every register the rule of
the command does not write (40_crc_engine.md R94, R95; 41_rtu_receive.md R110; 42_rtu_transmit.md R140;
43_host_access.md R160, R162, R164). -/
def Obligations.CommandsThatStoreNothingKeepTheBuffer : Prop :=
  ∀ (cw : CmdWord) (s t : State), exec (decode (.command cw)) s = .next t → cmdOp cw ≠ 5 →
    (∀ a, t.byteAt a = s.byteAt a) ∧ t.sil = s.sil ∧ t.env = s.env ∧
    (cmdOp cw ≠ 1 → cmdOp cw ≠ 2 → cmdOp cw ≠ 3 → cmdOp cw ≠ 4 → t.crc = s.crc) ∧
    (cmdOp cw ≠ 3 → cmdOp cw ≠ 4 →
      t.idx = s.idx ∧ t.stage = s.stage ∧ t.sid = s.sid ∧ t.status = s.status ∧ t.done = s.done) ∧
    (cmdOp cw ≠ 3 → t.rem = s.rem ∧ t.rxlen = s.rxlen) ∧
    (cmdOp cw ≠ 4 → t.txlen = s.txlen) ∧
    (cmdOp cw ≠ 6 → t.bufRdata = s.bufRdata ∧ t.draws = s.draws)

/-! ## The function bytes -/

/-- 41_rtu_receive.md R113, first case, with 30_encoding.md R67: 0x0F and 0x10 ask for the length byte; the
six named fixed codes and every other byte ask for the two CRC bytes. Nothing else changes. -/
def Obligations.FunctionBytesChooseTheNextRead : Prop :=
  ∀ s : State, s.stage = .rxPrefix → s.rem = 0 →
    (exec .fcWriteMultipleCoils s = .next { s with rem := 1, stage := .rxLen } ∧
      exec .fcWriteMultipleHoldingRegisters s = .next { s with rem := 1, stage := .rxLen }) ∧
    exec .fcReadCoils s = .next { s with rem := 2, stage := .rxTail } ∧
    exec .fcReadDiscreteInputs s = .next { s with rem := 2, stage := .rxTail } ∧
    exec .fcReadHoldingRegisters s = .next { s with rem := 2, stage := .rxTail } ∧
    exec .fcReadInputRegisters s = .next { s with rem := 2, stage := .rxTail } ∧
    exec .fcWriteSingleCoil s = .next { s with rem := 2, stage := .rxTail } ∧
    exec .fcWriteSingleHoldingRegister s = .next { s with rem := 2, stage := .rxTail } ∧
    ∀ fc : Byte, Instr.wf (.fcOther fc) = true →
      exec (.fcOther fc) s = .next { s with rem := 2, stage := .rxTail }

/-- The frame of the function bytes, and the model's choice of log 6: one that no ended prefix asks for is
refused. -/
def Obligations.FunctionBytesActOnlyAtTheEndOfAPrefix : Prop :=
  ∀ (fc : Byte) (s : State),
    (∀ t, exec (decode (.function fc)) s = .next t →
      s.stage = .rxPrefix ∧ s.rem = 0 ∧ t = { s with rem := t.rem, stage := t.stage } ∧
      ∀ a, t.byteAt a = s.byteAt a) ∧
    (s.stage ≠ .rxPrefix ∨ s.rem ≠ 0 → exec (decode (.function fc)) s = .refused .noFunctionByteDue)

/-! ## Receive -/

/-- 41_rtu_receive.md R112, for a byte that does not end its stage: it goes into the buffer at `IDX[7:0]`
and into the CRC, and nothing else changes. -/
def Obligations.DeliveredByteIsStoredAndFolded : Prop :=
  ∀ (s : State) (b : Byte) (rest : List RxAnswer),
    s.Undisturbed → s.stage.isRead = true → 1 < s.rem.toNat → s.env.rxLine = .byte b :: rest →
    ∃ t, step s = .next t ∧
      t = { s with
        buf := t.buf, crc := crcUpdate s.crc b, idx := s.idx + 1, rem := s.rem - 1, done := false
        env := { s.env with rxLine := rest } } ∧
      t.byteAt (lowIndex s.idx).toNat = some b ∧
      ∀ a, a ≠ (lowIndex s.idx).toNat → t.byteAt a = s.byteAt a

/-- 41_rtu_receive.md R113: the byte that brings `REM` to 0 ends its stage in the same step, in each of the
three read stages; `u` is the state after rule R112 alone. -/
def Obligations.LastByteEndsTheReadStage : Prop :=
  ∀ (s u : State) (b : Byte) (rest : List RxAnswer),
    s.Undisturbed → s.rem = 1 → s.env.rxLine = .byte b :: rest →
    u = takeByte b { s with done := false, env := { s.env with rxLine := rest } } →
    (∀ fc, s.stage = .rxPrefix → u.byteAt 1 = some fc →
      (isVar fc = true → step s = .next { u with rem := 1, stage := .rxLen }) ∧
      (isVar fc = false → step s = .next { u with rem := 2, stage := .rxTail })) ∧
    (s.stage = .rxLen →
      (9 + b.toNat > 256 → step s = .next { u with status := .failCap, stage := .idle, done := true }) ∧
      (9 + b.toNat ≤ 256 →
        step s = .next { u with rem := BitVec.ofNat 9 (b.toNat + 2), stage := .rxTail })) ∧
    (s.stage = .rxTail → step s = .next { u with stage := .rxCheck })

/-- 41_rtu_receive.md R114: a read failure in any of the three read stages, and nothing else changes. -/
def Obligations.ReadFailureEndsTheReceive : Prop :=
  ∀ (s : State) (rest : List RxAnswer),
    s.Undisturbed → s.stage.isRead = true → 0 < s.rem.toNat → s.env.rxLine = .fail :: rest →
    step s = .next { s with
      status := .failRead, stage := .idle, done := true, env := { s.env with rxLine := rest } }

/-- 41_rtu_receive.md R116 and R117: the CRC first, then the address, then the silence counter, in one
step that needs no event. -/
def Obligations.ChecksRunInOrder : Prop :=
  ∀ (s : State) (b : Byte), s.Undisturbed → s.stage = .rxCheck → s.byteAt 0 = some b →
    (s.crc ≠ 0 → step s = .next { s with status := .failCrc, stage := .idle, done := true }) ∧
    (s.crc = 0 → b ≠ s.sid → step s = .next { s with status := .failAddr, stage := .idle, done := true }) ∧
    (s.crc = 0 → b = s.sid → silenceUs s.env.charTime ≠ 0 →
      step s = .next { s with sil := silenceUs s.env.charTime, stage := .rxSilence, done := false }) ∧
    (s.crc = 0 → b = s.sid → silenceUs s.env.charTime = 0 →
      step s = .next { s with status := .ok, rxlen := s.idx - 2, stage := .idle, done := true })

/-- 41_rtu_receive.md R118: a tick counts in `RX_SILENCE`, the last one completes the receive, and in any
other stage it changes nothing. 70_reset_and_hazards.md R246, 93_implementation_defined.md U5: a change of
the character time, or of the availability level, leaves every register and byte as it was. Last, a step
before which nothing comes is the undisturbed one. That such a change is a step of its own, ahead of the
agent whose turn it is, is the model's choice of log 5 (DESIGN CHOICE). -/
def Obligations.TicksCountTheSilence : Prop :=
  (∀ (s : State) (n : Nat), s.Undisturbed → s.stage = .rxSilence → s.env.ticks = n + 1 →
    (s.sil ≠ 1 → step s = .next { s with
      sil := s.sil - 1, done := false, env := { s.env with ticks := n } }) ∧
    (s.sil = 1 → step s = .next { s with
      sil := 0, status := .ok, rxlen := s.idx - 2, stage := .idle, done := true
      env := { s.env with ticks := n } })) ∧
  (∀ s : State, s.stage ≠ .rxSilence → tick s = s) ∧
  (∀ (s : State) (ct : Half) (rest : List Signal), s.env.signals = .charTime ct :: rest →
    step s = .next { s with done := false, env := { s.env with signals := rest, charTime := ct } }) ∧
  (∀ (s : State) (level : Bool) (rest : List Signal), s.env.signals = .avail level :: rest →
    step s = .next { s with done := false, env := { s.env with signals := rest, avail := level } }) ∧
  ∀ (s t : State) (rest : List Signal), s.env.signals = .quiet :: rest →
    step { s with env := { s.env with signals := [] } } = .next t →
    step s = .next { t with env := { t.env with signals := rest } }

/-- 41_rtu_receive.md R119: the value, that 18 bits hold it, and the examples. -/
def Obligations.SilenceIsThirtySixTenthsOfACharacterTime : Prop :=
  (∀ ct : Half, (silenceUs ct).toNat = 36 * ct.toNat / 10 ∧ 36 * ct.toNat / 10 ≤ 235926) ∧
  silenceUs 0 = 0 ∧ silenceUs 1 = 3 ∧ silenceUs 3 = 10 ∧ silenceUs 1042 = 3751 ∧ silenceUs 65535 = 235926

/-! ## Transmit -/

/-- 42_rtu_transmit.md R142: each envelope byte is folded, one a step; then both CRC bytes are appended in
one step, low byte first, and no other byte changes. An envelope byte that nothing has written folds as a
free value, the model's choice of log 1, whatever the field `draws` holds. -/
def Obligations.CrcStageFoldsThenAppends : Prop :=
  ∀ s : State, s.Undisturbed → s.stage = .txCrc →
    (∀ b, s.idx.toNat < s.txlen.toNat → s.byteAt (lowIndex s.idx).toNat = some b →
      step s = .next { s with crc := crcUpdate s.crc b, idx := s.idx + 1, done := false }) ∧
    (s.idx.toNat < s.txlen.toNat → s.byteAt (lowIndex s.idx).toNat = none →
      step s = .next { s with
        crc := crcUpdate s.crc (Config.freeByte s.draws), idx := s.idx + 1, done := false
        draws := s.draws + 1 }) ∧
    (s.txlen.toNat ≤ s.idx.toNat → s.txlen.toNat ≤ 254 →
      ∃ t, step s = .next t ∧
        t = { s with buf := t.buf, idx := 0, stage := .txSend, done := false } ∧
        t.byteAt s.txlen.toNat = some (lo8 s.crc) ∧ t.byteAt (s.txlen.toNat + 1) = some (hi8 s.crc) ∧
        ∀ a, a ≠ s.txlen.toNat → a ≠ s.txlen.toNat + 1 → t.byteAt a = s.byteAt a)

/-- 42_rtu_transmit.md R143: the accepted byte goes onto the transmit stream; the last one completes. A
byte that nothing has written goes out as a free value, the model's choice of log 1, whatever the field
`draws` holds. -/
def Obligations.AcceptedByteGoesOntoTheStream : Prop :=
  ∀ (s : State) (b : Byte) (n : Nat) (rest : List TxAnswer),
    s.Undisturbed → s.stage = .txSend → s.env.txLine = .accept :: rest →
    (s.byteAt (lowIndex s.idx).toNat = some b ∧ n = s.draws ∨
      s.byteAt (lowIndex s.idx).toNat = none ∧ b = Config.freeByte s.draws ∧ n = s.draws + 1) →
    ((s.idx + 1).toNat ≠ s.txlen.toNat + 2 → step s = .next { s with
      idx := s.idx + 1, done := false, draws := n
      env := { s.env with txLine := rest, txStream := s.env.txStream ++ [b] } }) ∧
    ((s.idx + 1).toNat = s.txlen.toNat + 2 → step s = .next { s with
      idx := s.idx + 1, status := .ok, stage := .idle, done := true, draws := n
      env := { s.env with txLine := rest, txStream := s.env.txStream ++ [b] } })

/-- 42_rtu_transmit.md R144: a write failure, and nothing else changes. -/
def Obligations.WriteFailureEndsTheTransmit : Prop :=
  ∀ (s : State) (rest : List TxAnswer),
    s.Undisturbed → s.stage = .txSend → s.env.txLine = .fail :: rest →
    step s = .next { s with
      status := .failWrite, stage := .idle, done := true, env := { s.env with txLine := rest } }

/-! ## Failure, completion, waiting, reset -/

/-- 60_exceptions.md R203: what a failure writes, for each of the five kinds, and nothing else. -/
def Obligations.FailureWritesStatusAndGoesIdle : Prop :=
  ∀ (kind : Status) (s : State),
    s.fail kind = { s with status := kind, stage := .idle, done := true } ∧
    ∀ a, (s.fail kind).byteAt a = s.byteAt a

/-- 60_exceptions.md R204: what a successful ending writes. -/
def Obligations.SuccessWritesStatusAndTheReceivedLength : Prop :=
  ∀ s : State,
    (s.stage = .rxCheck ∨ s.stage = .rxSilence →
      s.completeOk = { s with status := .ok, rxlen := s.idx - 2, stage := .idle, done := true }) ∧
    (s.stage ≠ .rxCheck → s.stage ≠ .rxSilence →
      s.completeOk = { s with status := .ok, stage := .idle, done := true })

/-- 70_reset_and_hazards.md R244: where the agent a stage waits for has nothing to give, the block stays
as it is; there is no timeout. That such a step is a step at all is the model's choice of log 11. -/
def Obligations.WaitingStagesHaveNoTimeout : Prop :=
  ∀ s : State, s.Undisturbed →
    (s.stage = .idle → s.env.hostCmds = [] → step s = .next { s with done := false }) ∧
    (s.stage.isRead = true → 0 < s.rem.toNat → s.env.rxLine = [] → step s = .next { s with done := false }) ∧
    (s.stage = .txSend → s.env.txLine = [] → step s = .next { s with done := false }) ∧
    (s.stage = .rxSilence → s.env.ticks = 0 → step s = .next { s with done := false })

/-- 70_reset_and_hazards.md R230, R231: reset in any stage, in one step, to the reset values, with nothing
of the buffer written, no `done` event, and the transport as it was. -/
def Obligations.ResetEventGivesTheResetValues : Prop :=
  ∀ (s : State) (rest : List Signal), s.env.signals = .reset :: rest →
    ∃ t, step s = .next t ∧
      t = { State.reset with
        bufRdata := t.bufRdata, draws := t.draws, env := { s.env with signals := rest } } ∧
      ∀ a, t.byteAt a = none

/-- 10_state.md R28: the values after reset that the spec gives. -/
def Obligations.ResetStateHasTheResetValues : Prop :=
  State.reset.crc = 0xFFFF ∧ State.reset.idx = 0 ∧ State.reset.rem = 0 ∧ State.reset.stage = .idle ∧
  State.reset.sid = 0 ∧ State.reset.txlen = 0 ∧ State.reset.sil = 0 ∧ State.reset.status = .none ∧
  State.reset.rxlen = 0 ∧ ∀ a, State.reset.byteAt a = none

/-! ## The whole machine -/

/-- 41_rtu_receive.md R111, 42_rtu_transmit.md R141: from a state with the invariant, every step that
nothing disturbs takes a row of the stage tables, or waits. -/
def Obligations.StepsFollowTheStageTables : Prop :=
  ∀ s t : State, s.Inv → s.Undisturbed → step s = .next t → stageRow s t

/-- 41_rtu_receive.md R111 and 42_rtu_transmit.md R141, rows from `IDLE`: only an accepted `RECV` or `XMIT`
leaves `IDLE`. -/
def Obligations.OnlyRecvAndXmitLeaveIdle : Prop :=
  ∀ s t : State, s.stage = .idle → step s = .next t →
    t.stage = .idle ∨
    ∃ cw rest, s.env.hostCmds = cw :: rest ∧ t.env.hostCmds = rest ∧
      ((cmdOp cw = 3 ∧ t.stage = .rxPrefix) ∨ (cmdOp cw = 4 ∧ (cmdA cw).toNat ≤ 254 ∧ t.stage = .txCrc))

/-- 60_exceptions.md R201, the spec's own inference from the stage tables: how a receive and a transmit can
end. -/
def Obligations.OperationsEndOnlyInTheirOwnStatuses : Prop :=
  ∀ s t : State, s.Inv → s.Undisturbed → step s = .next t → t.stage = .idle →
    (s.stage.isReceive = true →
      t.status = .ok ∨ t.status = .failRead ∨ t.status = .failCrc ∨ t.status = .failAddr ∨
      t.status = .failCap) ∧
    (s.stage.isTransmit = true → t.status = .ok ∨ t.status = .failWrite) ∧
    (s.stage ≠ .idle → t.done = true)

/-- 10_state.md R19: `STATUS` changes only when a `RECV` or `XMIT` is accepted, when one completes, or at
reset. -/
def Obligations.StatusChangesOnlyAtAcceptanceAndCompletion : Prop :=
  ∀ s t : State, step s = .next t → t.status ≠ s.status →
    (s.stage = .idle ∧ ∃ cw rest, s.env.hostCmds = cw :: rest ∧ (cmdOp cw = 3 ∨ cmdOp cw = 4)) ∨
    (s.stage ≠ .idle ∧ t.stage = .idle ∧ t.done = true) ∨
    (∃ rest, s.env.signals = .reset :: rest)

/-- 10_state.md R10, 20_memory.md R49: a byte of the buffer changes only at the index that `BUF_WR`
carries, at `IDX` when a byte is delivered, at `TXLEN` and `TXLEN + 1` when the CRC is appended, or by
reset. -/
def Obligations.BufferIsWrittenOnlyByItsThreeWriters : Prop :=
  ∀ (s t : State) (a : Nat), s.Inv → step s = .next t → t.byteAt a ≠ s.byteAt a →
    (s.stage = .idle ∧ ∃ cw rest, s.env.hostCmds = cw :: rest ∧ cmdOp cw = 5 ∧ a = (cmdIndex cw).toNat) ∨
    (s.stage.isRead = true ∧ a = s.idx.toNat ∧ ∃ b rest, s.env.rxLine = .byte b :: rest ∧ t.byteAt a = some b) ∨
    (s.stage = .txCrc ∧ t.stage = .txSend ∧ (a = s.txlen.toNat ∨ a = s.txlen.toNat + 1)) ∨
    (∃ rest, s.env.signals = .reset :: rest)

/-- 42_rtu_transmit.md R143, 60_exceptions.md R203: the block transmits nothing of its own; a byte goes out
only when the transport accepts one in `TX_SEND`. -/
def Obligations.NothingIsTransmittedOutsideSend : Prop :=
  ∀ s t : State, step s = .next t →
    t.env.txStream = s.env.txStream ∨
    (s.stage = .txSend ∧ (∃ rest, s.env.txLine = .accept :: rest ∧ t.env.txLine = rest) ∧
      ∃ b, t.env.txStream = s.env.txStream ++ [b])

/-- The reset state satisfies the invariant (10_state.md R28, R29). -/
def Obligations.ResetStateSatisfiesTheInvariant : Prop := State.reset.Inv

/-- 10_state.md R29: every step keeps the invariant, from every state that has it. -/
def Obligations.EveryStepKeepsTheInvariant : Prop :=
  ∀ s t : State, s.Inv → step s = .next t → t.Inv

/-- From a state with the invariant a step always answers a next state: no fault, no refusal, whatever
the agents outside do (60_exceptions.md R200: no failure stops the block). For a reserved word this rests
on log 9 (DESIGN CHOICE: it acts as `NOP`, where R164 advises a model to refuse), for an agent with nothing
to give on log 11 (DESIGN CHOICE: a wait is a step), and for a byte of the buffer that nothing has written on
log 1 (DESIGN CHOICE: its read completes with a free value, where U6 also allows a fault). -/
def Obligations.NoStepStopsUnderTheInvariant : Prop :=
  ∀ s : State, s.Inv → ∃ t, step s = .next t

/-- 10_state.md R29: clauses (a) to (f), for every state reachable from reset. -/
def Obligations.ReachableStatesStayWithinTheBuffer : Prop :=
  ∀ s : State, Reachable s →
    s.idx.toNat ≤ 256 ∧
    (s.stage = .rxPrefix → s.idx.toNat + s.rem.toNat = 6) ∧
    (s.stage = .rxLen → s.idx.toNat = 6 ∧ s.rem.toNat = 1) ∧
    (s.stage = .rxTail → ∃ fc, s.byteAt 1 = some fc ∧
      (isVar fc = false → s.idx.toNat + s.rem.toNat = 8) ∧
      (isVar fc = true → ∃ l, s.byteAt 6 = some l ∧ s.idx.toNat + s.rem.toNat = 9 + l.toNat ∧
        9 + l.toNat ≤ 256)) ∧
    (s.stage.isRead = true → s.idx.toNat ≤ 255) ∧
    (s.stage = .txCrc → s.idx.toNat ≤ s.txlen.toNat ∧ s.txlen.toNat ≤ 254) ∧
    (s.stage = .txSend → s.idx.toNat ≤ s.txlen.toNat + 2 ∧ s.txlen.toNat + 2 ≤ 256 ∧ s.idx.toNat ≤ 255) ∧
    (s.stage.isRead = true → 0 < s.rem.toNat) ∧
    (s.stage ≠ .idle → s.status = .none)

/-- 41_rtu_receive.md R120: a whole receive, against the rule's own table. The transport delivers `r`; only
where the table says `FAIL_READ` must it then report a failure. The table is the spec's own inference
("derived: from rules R110 to R118"). -/
def Obligations.WholeReceiveEndsAsItsTableSays : Prop :=
  ∀ (s : State) (a : Len) (sid : Byte) (cs : List CmdWord) (r : List Byte) (rest : List RxAnswer),
    s.stage = .idle → s.Undisturbed →
    s.env.hostCmds = packCommand 3 a sid :: cs →
    s.env.rxLine = r.map .byte ++ rest →
    ((recvOutcome sid r).status = .failRead → ∃ more, rest = .fail :: more) →
    (silenceUs s.env.charTime).toNat ≤ s.env.ticks →
    ∃ n t, steps n s = .next t ∧
      t.stage = .idle ∧ t.done = true ∧
      t.status = (recvOutcome sid r).status ∧
      t.rxlen.toNat = (recvOutcome sid r).rxlen ∧
      (∀ i, i < (recvOutcome sid r).consumed → t.byteAt i = r[i]?) ∧
      (∀ i, (recvOutcome sid r).consumed ≤ i → t.byteAt i = s.byteAt i) ∧
      t.crc = crc16 (r.take (recvOutcome sid r).consumed) ∧
      t.env.hostCmds = cs ∧
      t.env.rxLine = (if (recvOutcome sid r).status = .failRead then rest.tail
        else (r.drop (recvOutcome sid r).consumed).map .byte ++ rest) ∧
      t.env.ticks = (if (recvOutcome sid r).waits then s.env.ticks - (silenceUs s.env.charTime).toNat
        else s.env.ticks) ∧
      t.env.txStream = s.env.txStream

/-- 42_rtu_transmit.md R145: a whole transmit of the envelope `e`, with the transport accepting `k` bytes
and, where the frame has more, then failing. The table is the spec's own inference ("derived: from rules
R140 to R144"). -/
def Obligations.WholeTransmitSendsTheEnvelopeAndItsCrc : Prop :=
  ∀ (s : State) (sid : Byte) (cs : List CmdWord) (e : List Byte) (k : Nat) (rest : List TxAnswer),
    s.stage = .idle → s.Undisturbed →
    e.length ≤ 254 → (∀ i, i < e.length → s.byteAt i = e[i]?) →
    s.env.hostCmds = packCommand 4 (BitVec.ofNat 9 e.length) sid :: cs →
    k ≤ e.length + 2 →
    s.env.txLine = List.replicate k .accept ++ rest →
    (k < e.length + 2 → ∃ more, rest = .fail :: more) →
    ∃ n t, steps n s = .next t ∧
      t.stage = .idle ∧ t.done = true ∧
      t.status = (if k < e.length + 2 then .failWrite else .ok) ∧
      t.crc = crc16 e ∧ t.rxlen = s.rxlen ∧
      t.env.txStream = s.env.txStream ++ (e ++ le16 (crc16 e)).take k ∧
      t.env.txLine = (if k < e.length + 2 then rest.tail else rest) ∧
      t.env.hostCmds = cs ∧
      t.byteAt e.length = some (lo8 (crc16 e)) ∧ t.byteAt (e.length + 1) = some (hi8 (crc16 e)) ∧
      ∀ a, a ≠ e.length → a ≠ e.length + 1 → t.byteAt a = s.byteAt a

/-- 42_rtu_transmit.md R145, last sentence, and 41_rtu_receive.md R120: a fixed frame that one block `s` has
transmitted, delivered to another block `r` with that station address, completes there with `OK`; both runs
are steps of the machine. -/
def Obligations.TransmittedFixedFrameIsReceived : Prop :=
  ∀ (s : State) (sid x : Byte) (e : List Byte) (cs : List CmdWord) (more : List TxAnswer),
    e.length = 6 → e[0]? = some sid → (∀ fc, e[1]? = some fc → isVar fc = false) →
    s.stage = .idle → s.Undisturbed → (∀ i, i < 6 → s.byteAt i = e[i]?) →
    s.env.hostCmds = packCommand 4 6 x :: cs →
    s.env.txLine = List.replicate 8 .accept ++ more → s.env.txStream = [] →
    ∃ n t, steps n s = .next t ∧ t.stage = .idle ∧ t.status = .ok ∧ t.env.txStream.length = 8 ∧
      ∀ (r : State) (a : Len) (ds : List CmdWord) (rest : List RxAnswer),
        r.stage = .idle → r.Undisturbed → r.env.hostCmds = packCommand 3 a sid :: ds →
        r.env.rxLine = t.env.txStream.map .byte ++ rest →
        (silenceUs r.env.charTime).toNat ≤ r.env.ticks →
        ∃ m u, steps m r = .next u ∧ u.stage = .idle ∧ u.done = true ∧ u.status = .ok ∧ u.rxlen = 6 ∧
          u.env.rxLine = rest ∧ ∀ i, i < 8 → u.byteAt i = t.env.txStream[i]?

/-- 41_rtu_receive.md R123, the spec's own inference: a frame `r` that the table of R120 accepts, with one
bit flipped where the flip leaves the frame's shape as it was. The table says `FAIL_CRC` of the flipped
frame `u`, and the block that receives it ends so: consumed whole, no wait, nothing transmitted. -/
def Obligations.FlippedBitOfAFrameIsRejected : Prop :=
  ∀ (sid : Byte) (r u : List Byte) (i j : Nat), j < 8 → i < (recvOutcome sid r).consumed →
    (recvOutcome sid r).status = .ok →
    u = r.set i (r.getD i 0 ^^^ (1 : Byte) <<< j) →
    isVar (u.getD 1 0) = isVar (r.getD 1 0) →
    (isVar (r.getD 1 0) = true → u.getD 6 0 = r.getD 6 0) →
    recvOutcome sid u = ⟨.failCrc, (recvOutcome sid r).consumed, 0, false⟩ ∧
    ∀ (s : State) (a : Len) (cs : List CmdWord) (rest : List RxAnswer),
      s.stage = .idle → s.Undisturbed → s.env.hostCmds = packCommand 3 a sid :: cs →
      s.env.rxLine = u.map .byte ++ rest →
      ∃ n t, steps n s = .next t ∧ t.stage = .idle ∧ t.done = true ∧ t.status = .failCrc ∧ t.rxlen = 0 ∧
        t.env.rxLine = (u.drop (recvOutcome sid r).consumed).map .byte ++ rest ∧
        t.env.ticks = s.env.ticks ∧ t.env.txStream = s.env.txStream

/-! ## Outputs and ports -/

/-- 10_state.md R24, with 40_crc_engine.md R96 and 41_rtu_receive.md R115: the derived outputs are
functions of the state, in every stage; and the codes of 10_state.md R15 and R19 that the outputs and the
registers have. -/
def Obligations.OutputsAreFunctionsOfTheState : Prop :=
  (∀ s : State,
    (s.busy = true ↔ s.stage ≠ .idle) ∧ (s.cmdReady = true ↔ s.stage = .idle) ∧
    (s.isOk = true ↔ s.status = .ok) ∧ s.crcValue = s.crc ∧ s.rxLenOut = s.rxlen ∧
    s.statusOut = statusCode s.status ∧ s.availOut = s.env.avail) ∧
  [Status.none, .ok, .failRead, .failCrc, .failAddr, .failCap, .failWrite].map statusCode = [0, 1, 2, 3, 4, 5, 6] ∧
  [Stage.idle, .rxPrefix, .rxLen, .rxTail, .rxCheck, .rxSilence, .txCrc, .txSend].map stageCode =
    [0, 1, 2, 3, 4, 5, 6, 7]

/-- 10_state.md R23, 60_exceptions.md R202: at the pins a failure has priority over a byte and over an
acceptance in the same cycle. That a cycle is one step is the model's choice of log 16 (DESIGN CHOICE). -/
def Obligations.FailureHasPriorityAtThePins : Prop :=
  ∀ (p : PortIn) (s : State), p.rst = false →
    (s.stage.isRead = true → 0 < s.rem.toNat → p.rxFail = true →
      ∃ t, cycle p s = .next t ∧ t.status = .failRead ∧ t.stage = .idle ∧ t.done = true ∧ t.idx = s.idx) ∧
    (s.stage = .txSend → p.txFail = true →
      ∃ t, cycle p s = .next t ∧ t.status = .failWrite ∧ t.stage = .idle ∧ t.done = true ∧
        t.env.txStream = s.env.txStream)

/-- 10_state.md R23, 43_host_access.md R163: at the pins a command word is run in a cycle with
`cmd_valid` and `cmd_ready`, and in any other cycle it has no effect: the block waits in an idle cycle without
`cmd_valid`, and a busy cycle does not depend on the command pins. That a cycle is one step is the model's
choice of log 16 (DESIGN CHOICE), and that an idle wait is a step that of log 11 (DESIGN CHOICE). -/
def Obligations.CommandIsTakenOnlyInAReadyCycle : Prop :=
  ∀ (p : PortIn) (s : State), p.rst = false →
    (s.stage = .idle → p.cmdValid = true →
      cycle p s = exec (decode (.command p.cmdWord))
        { s.drive { p with cmdValid := false } with done := false }) ∧
    (s.stage = .idle → p.cmdValid = false → ∀ w : CmdWord,
      cycle { p with cmdWord := w } s = .next { s.drive p with done := false }) ∧
    (s.stage ≠ .idle → ∀ (v : Bool) (w : CmdWord) (t u : State), cycle p s = .next t →
      cycle { p with cmdValid := v, cmdWord := w } s = .next u →
      { t with env := { t.env with hostCmds := [] } } = { u with env := { u.env with hostCmds := [] } })
end

