-- ==== Sys2Proof/Laws/Crc.lean ====
section
/-! SUPPORT. The linearity of the CRC step over exclusive-or, and the fold on appended bytes
(40_crc_engine.md R92, R93, R99 rest on them). -/

namespace Sys2Proof.Machine

@[simp] theorem crcBit_zero : crcBit 0 = 0 := rfl

theorem crcBit_xor (x y : Half) : crcBit (x ^^^ y) = crcBit x ^^^ crcBit y := by
  unfold crcBit
  rw [BitVec.getLsbD_xor, BitVec.ushiftRight_xor_distrib]
  cases x.getLsbD 0 <;> cases y.getLsbD 0 <;> simp only [Bool.xor_false, Bool.xor_true, Bool.not_false,
    Bool.not_true, if_true, if_false, Bool.false_eq_true]
  · rw [BitVec.xor_assoc]
  · ac_rfl
  · calc x >>> 1 ^^^ y >>> 1
        = (x >>> 1 ^^^ y >>> 1) ^^^ (Config.poly ^^^ Config.poly) := by rw [BitVec.xor_self, BitVec.xor_zero]
      _ = x >>> 1 ^^^ Config.poly ^^^ (y >>> 1 ^^^ Config.poly) := by ac_rfl

@[simp] theorem crcBits_zero (n : Nat) : crcBits n 0 = 0 := by
  induction n with
  | zero => rfl
  | succ n ih => exact ih

theorem crcBits_xor (n : Nat) (x y : Half) : crcBits n (x ^^^ y) = crcBits n x ^^^ crcBits n y := by
  induction n generalizing x y with
  | zero => rfl
  | succ n ih => simp only [crcBits, crcBit_xor, ih]

/-- The update is linear in the register and the byte together. -/
theorem crcUpdate_xor (c e : Half) (b x : Byte) :
    crcUpdate (c ^^^ e) (b ^^^ x) = crcUpdate c b ^^^ crcUpdate e x := by
  unfold crcUpdate
  rw [← crcBits_xor, BitVec.setWidth_xor]
  congr 1
  ac_rfl

@[simp] theorem crcFold_nil (c : Half) : crcFold c [] = c := rfl

@[simp] theorem crcFold_cons (c : Half) (b : Byte) (u : List Byte) :
    crcFold c (b :: u) = crcFold (crcUpdate c b) u := rfl

theorem crcFold_append (c : Half) (u v : List Byte) : crcFold c (u ++ v) = crcFold (crcFold c u) v :=
  List.foldl_append

end Sys2Proof.Machine
end

