-- ==== Sys2Proof/Laws/Encoding.lean ====
section
/-! SUPPORT. The fields of a packed command word, and a command word as the packing of its fields. -/

namespace Sys2Proof

theorem packCommand_toNat (op : BitVec 3) (a : Len) (d : Byte) :
    (packCommand op a d).toNat = op.toNat * 131072 + a.toNat * 256 + d.toNat := by
  have ha := a.isLt
  have hd := d.isLt
  show ((op ++ a) ++ d).toNat = _
  rw [BitVec.toNat_append, BitVec.toNat_append, ← Nat.shiftLeft_add_eq_or_of_lt ha,
    ← Nat.shiftLeft_add_eq_or_of_lt hd, Nat.shiftLeft_eq, Nat.shiftLeft_eq]
  omega

theorem packA_toNat (a8 : BitVec 1) (low : Byte) : (packA a8 low).toNat = a8.toNat * 256 + low.toNat := by
  have hl := low.isLt
  show (a8 ++ low).toNat = _
  rw [BitVec.toNat_append, ← Nat.shiftLeft_add_eq_or_of_lt hl, Nat.shiftLeft_eq]

theorem cmdOp_toNat (cw : CmdWord) : (cmdOp cw).toNat = cw.toNat / 131072 := by
  have := cw.isLt
  simp only [cmdOp, BitVec.extractLsb'_toNat, Nat.shiftRight_eq_div_pow]
  omega

theorem cmdA_toNat (cw : CmdWord) : (cmdA cw).toNat = cw.toNat / 256 % 512 := by
  simp only [cmdA, BitVec.extractLsb'_toNat, Nat.shiftRight_eq_div_pow]

theorem cmdIndex_toNat (cw : CmdWord) : (cmdIndex cw).toNat = cw.toNat / 256 % 256 := by
  simp only [cmdIndex, BitVec.extractLsb'_toNat, Nat.shiftRight_eq_div_pow]

theorem cmdD_toNat (cw : CmdWord) : (cmdD cw).toNat = cw.toNat % 256 := by
  simp only [cmdD, BitVec.extractLsb'_toNat, Nat.shiftRight_eq_div_pow]
  omega

theorem cmdA8_eq (cw : CmdWord) : cmdA8 cw = decide (cw.toNat / 65536 % 2 = 1) := by
  simp only [cmdA8, BitVec.getLsbD, Nat.testBit_eq_decide_div_mod_eq]

@[simp] theorem cmdOp_packCommand (op : BitVec 3) (a : Len) (d : Byte) : cmdOp (packCommand op a d) = op := by
  apply BitVec.eq_of_toNat_eq
  rw [cmdOp_toNat, packCommand_toNat]
  have := a.isLt; have := d.isLt; omega

@[simp] theorem cmdA_packCommand (op : BitVec 3) (a : Len) (d : Byte) : cmdA (packCommand op a d) = a := by
  apply BitVec.eq_of_toNat_eq
  rw [cmdA_toNat, packCommand_toNat]
  have := a.isLt; have := d.isLt; omega

@[simp] theorem cmdD_packCommand (op : BitVec 3) (a : Len) (d : Byte) : cmdD (packCommand op a d) = d := by
  apply BitVec.eq_of_toNat_eq
  rw [cmdD_toNat, packCommand_toNat]
  have := d.isLt; omega

@[simp] theorem cmdIndex_packCommand (op : BitVec 3) (a8 : BitVec 1) (i d : Byte) :
    cmdIndex (packCommand op (packA a8 i) d) = i := by
  apply BitVec.eq_of_toNat_eq
  rw [cmdIndex_toNat, packCommand_toNat, packA_toNat]
  have := i.isLt; have := d.isLt; omega

@[simp] theorem cmdA8_packCommand (op : BitVec 3) (a8 : BitVec 1) (i d : Byte) :
    cmdA8 (packCommand op (packA a8 i) d) = decide (a8 = 1) := by
  rw [cmdA8_eq, packCommand_toNat, packA_toNat]
  have h8 := a8.isLt; have hi := i.isLt; have hd := d.isLt
  rw [decide_eq_decide]
  constructor
  · intro h; apply BitVec.eq_of_toNat_eq; simp; omega
  · rintro rfl; simp; omega

/-- A command word is the packing of its fields. -/
theorem packCommand_fields (cw : CmdWord) : packCommand (cmdOp cw) (cmdA cw) (cmdD cw) = cw := by
  apply BitVec.eq_of_toNat_eq
  rw [packCommand_toNat, cmdOp_toNat, cmdA_toNat, cmdD_toNat]
  have := cw.isLt; omega

/-- The 9-bit operand is the packing of bit 8 and the index. -/
theorem packA_fields (cw : CmdWord) : packA (if cmdA8 cw then 1 else 0) (cmdIndex cw) = cmdA cw := by
  apply BitVec.eq_of_toNat_eq
  rw [packA_toNat, cmdA_toNat, cmdIndex_toNat, cmdA8_eq]
  split <;> rename_i h <;> simp at h ⊢ <;> omega

/-- A 3-bit operation code is one of eight. -/
theorem op_cases (op : BitVec 3) :
    op = 0 ∨ op = 1 ∨ op = 2 ∨ op = 3 ∨ op = 4 ∨ op = 5 ∨ op = 6 ∨ op = 7 := by
  revert op; decide

end Sys2Proof
end

