-- ==== Sys2Proof/Laws/Memory.lean ====
section
/-! SUPPORT. The laws of the buffer as a list of cells: a read after a write, and the canonical form. -/

namespace Sys2Proof.Machine

@[simp] theorem lookup_nil (a : Nat) : lookup [] a = none := rfl

@[simp] theorem lookup_store_same (m : Memory) (a : Nat) (b : Byte) : lookup (store m a b) a = some b := by
  induction m with
  | nil => simp [store, lookup]
  | cons c m ih =>
    obtain ⟨k, v⟩ := c
    unfold store
    split
    · simp [lookup]
    · split
      · simp [lookup]
      · next h => simp [lookup, Ne.symm h, ih]

theorem lookup_store_other (m : Memory) (a c : Nat) (b : Byte) (h : c ≠ a) :
    lookup (store m a b) c = lookup m c := by
  induction m with
  | nil => simp [store, lookup, Ne.symm h]
  | cons d m ih =>
    obtain ⟨k, v⟩ := d
    unfold store
    split
    · simp [lookup, Ne.symm h]
    · split
      · next hk => subst hk; simp [lookup, Ne.symm h]
      · simp [lookup, ih]

theorem risingFrom_store (m : Memory) (low a : Nat) (b : Byte) (hl : low ≤ a) (ha : a < 256)
    (h : risingFrom low m = true) : risingFrom low (store m a b) = true := by
  induction m generalizing low with
  | nil => simp [store, risingFrom, Config.cap, hl, ha]
  | cons c m ih =>
    obtain ⟨k, v⟩ := c
    simp only [risingFrom, Bool.and_eq_true, decide_eq_true_eq] at h
    obtain ⟨⟨h1, h2⟩, h3⟩ := h
    unfold store
    split
    · next hk => simp only [Config.cap] at h2; simp [risingFrom, hl, h2, h3, Config.cap, ha, Nat.succ_le_of_lt hk]
    · split
      · next hk => subst hk; simp [risingFrom, hl, h3, Config.cap, ha]
      · next hk hne => simp [risingFrom, h1, h2, ih (k + 1) (by omega) h3]

/-- Every write inside the buffer keeps the canonical form. -/
theorem store_wf (m : Memory) (a : Nat) (b : Byte) (ha : a < 256) (h : Memory.wf m = true) :
    Memory.wf (store m a b) = true :=
  risingFrom_store m 0 a b (Nat.zero_le a) ha h

theorem lookup_below (m : Memory) (low a : Nat) (h : risingFrom low m = true) (ha : a < low) :
    lookup m a = none := by
  induction m generalizing low with
  | nil => rfl
  | cons c m ih =>
    obtain ⟨k, v⟩ := c
    simp only [risingFrom, Bool.and_eq_true, decide_eq_true_eq] at h
    have hk : k ≠ a := by omega
    simp [lookup, hk, ih (k + 1) h.2 (by omega)]

/-- Nothing is listed outside the buffer. -/
theorem lookup_outside (m : Memory) (a : Nat) (h : Memory.wf m = true) (ha : 256 ≤ a) : lookup m a = none := by
  have aux : ∀ (low : Nat) (m : Memory), risingFrom low m = true → lookup m a = none := by
    intro low m
    induction m generalizing low with
    | nil => intro _; rfl
    | cons c m ih =>
      intro h
      obtain ⟨k, v⟩ := c
      simp only [risingFrom, Bool.and_eq_true, decide_eq_true_eq] at h
      have hk : k ≠ a := by have : k < 256 := h.1.2; omega
      simp [lookup, hk, ih (k + 1) h.2]
  exact aux 0 m h

/-- Memories in canonical form that read alike are equal data. -/
theorem eq_of_lookup (m n : Memory) (low : Nat) (hm : risingFrom low m = true) (hn : risingFrom low n = true)
    (h : ∀ a, lookup m a = lookup n a) : m = n := by
  induction m generalizing n low with
  | nil =>
    cases n with
    | nil => rfl
    | cons d n => have := h d.1; simp [lookup] at this
  | cons c m ih =>
    obtain ⟨k, v⟩ := c
    cases n with
    | nil => have := h k; simp [lookup] at this
    | cons d n =>
      obtain ⟨l, w⟩ := d
      simp only [risingFrom, Bool.and_eq_true, decide_eq_true_eq] at hm hn
      have hk : k = l := by
        by_contra hne
        rcases Nat.lt_or_gt_of_ne hne with hlt | hgt
        · have := h k
          simp [lookup, Ne.symm hne, lookup_below n (l + 1) k hn.2 (by omega)] at this
        · have := h l
          simp [lookup, hne, lookup_below m (k + 1) l hm.2 (by omega)] at this
      subst hk
      have hv : v = w := by have := h k; simpa [lookup] using this
      subst hv
      refine congrArg _ (ih n (k + 1) hm.2 hn.2 fun a => ?_)
      by_cases ha : k = a
      · subst ha
        rw [lookup_below m (k + 1) k hm.2 (by omega), lookup_below n (k + 1) k hn.2 (by omega)]
      · have := h a
        simpa [lookup, ha] using this

end Sys2Proof.Machine
end

