-- ==== Sys2Proof/Laws/State.lean ====
section
/-! SUPPORT. One lemma per field per named update of the state, so that no proof unfolds an update. -/

namespace Sys2Proof.Machine

variable (s : State)

/-! ## clearDone -/

@[simp] theorem clearDone_crc : (s.clearDone).crc = s.crc := rfl
@[simp] theorem clearDone_buf : (s.clearDone).buf = s.buf := rfl
@[simp] theorem clearDone_idx : (s.clearDone).idx = s.idx := rfl
@[simp] theorem clearDone_rem : (s.clearDone).rem = s.rem := rfl
@[simp] theorem clearDone_stage : (s.clearDone).stage = s.stage := rfl
@[simp] theorem clearDone_sid : (s.clearDone).sid = s.sid := rfl
@[simp] theorem clearDone_txlen : (s.clearDone).txlen = s.txlen := rfl
@[simp] theorem clearDone_sil : (s.clearDone).sil = s.sil := rfl
@[simp] theorem clearDone_status : (s.clearDone).status = s.status := rfl
@[simp] theorem clearDone_rxlen : (s.clearDone).rxlen = s.rxlen := rfl
@[simp] theorem clearDone_bufRdata : (s.clearDone).bufRdata = s.bufRdata := rfl
@[simp] theorem clearDone_done : (s.clearDone).done = false := rfl
@[simp] theorem clearDone_draws : (s.clearDone).draws = s.draws := rfl
@[simp] theorem clearDone_env : (s.clearDone).env = s.env := rfl

/-! ## writeByte -/

@[simp] theorem writeByte_crc (i b : Byte) : (s.writeByte i b).crc = s.crc := rfl
@[simp] theorem writeByte_buf (i b : Byte) : (s.writeByte i b).buf = store s.buf i.toNat b := rfl
@[simp] theorem writeByte_idx (i b : Byte) : (s.writeByte i b).idx = s.idx := rfl
@[simp] theorem writeByte_rem (i b : Byte) : (s.writeByte i b).rem = s.rem := rfl
@[simp] theorem writeByte_stage (i b : Byte) : (s.writeByte i b).stage = s.stage := rfl
@[simp] theorem writeByte_sid (i b : Byte) : (s.writeByte i b).sid = s.sid := rfl
@[simp] theorem writeByte_txlen (i b : Byte) : (s.writeByte i b).txlen = s.txlen := rfl
@[simp] theorem writeByte_sil (i b : Byte) : (s.writeByte i b).sil = s.sil := rfl
@[simp] theorem writeByte_status (i b : Byte) : (s.writeByte i b).status = s.status := rfl
@[simp] theorem writeByte_rxlen (i b : Byte) : (s.writeByte i b).rxlen = s.rxlen := rfl
@[simp] theorem writeByte_bufRdata (i b : Byte) : (s.writeByte i b).bufRdata = s.bufRdata := rfl
@[simp] theorem writeByte_done (i b : Byte) : (s.writeByte i b).done = s.done := rfl
@[simp] theorem writeByte_draws (i b : Byte) : (s.writeByte i b).draws = s.draws := rfl
@[simp] theorem writeByte_env (i b : Byte) : (s.writeByte i b).env = s.env := rfl

/-! ## fail -/

@[simp] theorem fail_crc (k : Status) : (s.fail k).crc = s.crc := rfl
@[simp] theorem fail_buf (k : Status) : (s.fail k).buf = s.buf := rfl
@[simp] theorem fail_idx (k : Status) : (s.fail k).idx = s.idx := rfl
@[simp] theorem fail_rem (k : Status) : (s.fail k).rem = s.rem := rfl
@[simp] theorem fail_stage (k : Status) : (s.fail k).stage = .idle := rfl
@[simp] theorem fail_sid (k : Status) : (s.fail k).sid = s.sid := rfl
@[simp] theorem fail_txlen (k : Status) : (s.fail k).txlen = s.txlen := rfl
@[simp] theorem fail_sil (k : Status) : (s.fail k).sil = s.sil := rfl
@[simp] theorem fail_status (k : Status) : (s.fail k).status = k := rfl
@[simp] theorem fail_rxlen (k : Status) : (s.fail k).rxlen = s.rxlen := rfl
@[simp] theorem fail_bufRdata (k : Status) : (s.fail k).bufRdata = s.bufRdata := rfl
@[simp] theorem fail_done (k : Status) : (s.fail k).done = true := rfl
@[simp] theorem fail_draws (k : Status) : (s.fail k).draws = s.draws := rfl
@[simp] theorem fail_env (k : Status) : (s.fail k).env = s.env := rfl

/-! ## completeOk -/

@[simp] theorem completeOk_crc : (s.completeOk).crc = s.crc := rfl
@[simp] theorem completeOk_buf : (s.completeOk).buf = s.buf := rfl
@[simp] theorem completeOk_idx : (s.completeOk).idx = s.idx := rfl
@[simp] theorem completeOk_rem : (s.completeOk).rem = s.rem := rfl
@[simp] theorem completeOk_stage : (s.completeOk).stage = .idle := rfl
@[simp] theorem completeOk_sid : (s.completeOk).sid = s.sid := rfl
@[simp] theorem completeOk_txlen : (s.completeOk).txlen = s.txlen := rfl
@[simp] theorem completeOk_sil : (s.completeOk).sil = s.sil := rfl
@[simp] theorem completeOk_status : (s.completeOk).status = .ok := rfl
@[simp] theorem completeOk_rxlen : (s.completeOk).rxlen = if s.stage = .rxCheck ∨ s.stage = .rxSilence then s.idx - 2 else s.rxlen := rfl
@[simp] theorem completeOk_bufRdata : (s.completeOk).bufRdata = s.bufRdata := rfl
@[simp] theorem completeOk_done : (s.completeOk).done = true := rfl
@[simp] theorem completeOk_draws : (s.completeOk).draws = s.draws := rfl
@[simp] theorem completeOk_env : (s.completeOk).env = s.env := rfl

/-! ## takeByte -/

@[simp] theorem takeByte_crc (b : Byte) : (takeByte b s).crc = crcUpdate s.crc b := rfl
@[simp] theorem takeByte_buf (b : Byte) : (takeByte b s).buf = store s.buf (lowIndex s.idx).toNat b := rfl
@[simp] theorem takeByte_idx (b : Byte) : (takeByte b s).idx = s.idx + 1 := rfl
@[simp] theorem takeByte_rem (b : Byte) : (takeByte b s).rem = s.rem - 1 := rfl
@[simp] theorem takeByte_stage (b : Byte) : (takeByte b s).stage = s.stage := rfl
@[simp] theorem takeByte_sid (b : Byte) : (takeByte b s).sid = s.sid := rfl
@[simp] theorem takeByte_txlen (b : Byte) : (takeByte b s).txlen = s.txlen := rfl
@[simp] theorem takeByte_sil (b : Byte) : (takeByte b s).sil = s.sil := rfl
@[simp] theorem takeByte_status (b : Byte) : (takeByte b s).status = s.status := rfl
@[simp] theorem takeByte_rxlen (b : Byte) : (takeByte b s).rxlen = s.rxlen := rfl
@[simp] theorem takeByte_bufRdata (b : Byte) : (takeByte b s).bufRdata = s.bufRdata := rfl
@[simp] theorem takeByte_done (b : Byte) : (takeByte b s).done = s.done := rfl
@[simp] theorem takeByte_draws (b : Byte) : (takeByte b s).draws = s.draws := rfl
@[simp] theorem takeByte_env (b : Byte) : (takeByte b s).env = s.env := rfl

/-! ## endTail -/

@[simp] theorem endTail_crc : (endTail s).crc = s.crc := rfl
@[simp] theorem endTail_buf : (endTail s).buf = s.buf := rfl
@[simp] theorem endTail_idx : (endTail s).idx = s.idx := rfl
@[simp] theorem endTail_rem : (endTail s).rem = s.rem := rfl
@[simp] theorem endTail_stage : (endTail s).stage = .rxCheck := rfl
@[simp] theorem endTail_sid : (endTail s).sid = s.sid := rfl
@[simp] theorem endTail_txlen : (endTail s).txlen = s.txlen := rfl
@[simp] theorem endTail_sil : (endTail s).sil = s.sil := rfl
@[simp] theorem endTail_status : (endTail s).status = s.status := rfl
@[simp] theorem endTail_rxlen : (endTail s).rxlen = s.rxlen := rfl
@[simp] theorem endTail_bufRdata : (endTail s).bufRdata = s.bufRdata := rfl
@[simp] theorem endTail_done : (endTail s).done = s.done := rfl
@[simp] theorem endTail_draws : (endTail s).draws = s.draws := rfl
@[simp] theorem endTail_env : (endTail s).env = s.env := rfl

/-! ## readByte: only the count of drawn values may change -/

@[simp] theorem readByte_crc (i : Byte) : (s.readByte i).2.crc = s.crc := by
  unfold State.readByte; split <;> rfl
@[simp] theorem readByte_buf (i : Byte) : (s.readByte i).2.buf = s.buf := by
  unfold State.readByte; split <;> rfl
@[simp] theorem readByte_idx (i : Byte) : (s.readByte i).2.idx = s.idx := by
  unfold State.readByte; split <;> rfl
@[simp] theorem readByte_rem (i : Byte) : (s.readByte i).2.rem = s.rem := by
  unfold State.readByte; split <;> rfl
@[simp] theorem readByte_stage (i : Byte) : (s.readByte i).2.stage = s.stage := by
  unfold State.readByte; split <;> rfl
@[simp] theorem readByte_sid (i : Byte) : (s.readByte i).2.sid = s.sid := by
  unfold State.readByte; split <;> rfl
@[simp] theorem readByte_txlen (i : Byte) : (s.readByte i).2.txlen = s.txlen := by
  unfold State.readByte; split <;> rfl
@[simp] theorem readByte_sil (i : Byte) : (s.readByte i).2.sil = s.sil := by
  unfold State.readByte; split <;> rfl
@[simp] theorem readByte_status (i : Byte) : (s.readByte i).2.status = s.status := by
  unfold State.readByte; split <;> rfl
@[simp] theorem readByte_rxlen (i : Byte) : (s.readByte i).2.rxlen = s.rxlen := by
  unfold State.readByte; split <;> rfl
@[simp] theorem readByte_bufRdata (i : Byte) : (s.readByte i).2.bufRdata = s.bufRdata := by
  unfold State.readByte; split <;> rfl
@[simp] theorem readByte_done (i : Byte) : (s.readByte i).2.done = s.done := by
  unfold State.readByte; split <;> rfl
@[simp] theorem readByte_env (i : Byte) : (s.readByte i).2.env = s.env := by
  unfold State.readByte; split <;> rfl

/-! ## withHostCmds -/

@[simp] theorem withHostCmds_crc (rest : List CmdWord) : (s.withHostCmds rest).crc = s.crc := rfl
@[simp] theorem withHostCmds_buf (rest : List CmdWord) : (s.withHostCmds rest).buf = s.buf := rfl
@[simp] theorem withHostCmds_idx (rest : List CmdWord) : (s.withHostCmds rest).idx = s.idx := rfl
@[simp] theorem withHostCmds_rem (rest : List CmdWord) : (s.withHostCmds rest).rem = s.rem := rfl
@[simp] theorem withHostCmds_stage (rest : List CmdWord) : (s.withHostCmds rest).stage = s.stage := rfl
@[simp] theorem withHostCmds_sid (rest : List CmdWord) : (s.withHostCmds rest).sid = s.sid := rfl
@[simp] theorem withHostCmds_txlen (rest : List CmdWord) : (s.withHostCmds rest).txlen = s.txlen := rfl
@[simp] theorem withHostCmds_sil (rest : List CmdWord) : (s.withHostCmds rest).sil = s.sil := rfl
@[simp] theorem withHostCmds_status (rest : List CmdWord) : (s.withHostCmds rest).status = s.status := rfl
@[simp] theorem withHostCmds_rxlen (rest : List CmdWord) : (s.withHostCmds rest).rxlen = s.rxlen := rfl
@[simp] theorem withHostCmds_bufRdata (rest : List CmdWord) : (s.withHostCmds rest).bufRdata = s.bufRdata := rfl
@[simp] theorem withHostCmds_done (rest : List CmdWord) : (s.withHostCmds rest).done = s.done := rfl
@[simp] theorem withHostCmds_draws (rest : List CmdWord) : (s.withHostCmds rest).draws = s.draws := rfl
@[simp] theorem withHostCmds_env (rest : List CmdWord) : (s.withHostCmds rest).env = { s.env with hostCmds := rest } := rfl

/-! ## withRxLine -/

@[simp] theorem withRxLine_crc (rest : List RxAnswer) : (s.withRxLine rest).crc = s.crc := rfl
@[simp] theorem withRxLine_buf (rest : List RxAnswer) : (s.withRxLine rest).buf = s.buf := rfl
@[simp] theorem withRxLine_idx (rest : List RxAnswer) : (s.withRxLine rest).idx = s.idx := rfl
@[simp] theorem withRxLine_rem (rest : List RxAnswer) : (s.withRxLine rest).rem = s.rem := rfl
@[simp] theorem withRxLine_stage (rest : List RxAnswer) : (s.withRxLine rest).stage = s.stage := rfl
@[simp] theorem withRxLine_sid (rest : List RxAnswer) : (s.withRxLine rest).sid = s.sid := rfl
@[simp] theorem withRxLine_txlen (rest : List RxAnswer) : (s.withRxLine rest).txlen = s.txlen := rfl
@[simp] theorem withRxLine_sil (rest : List RxAnswer) : (s.withRxLine rest).sil = s.sil := rfl
@[simp] theorem withRxLine_status (rest : List RxAnswer) : (s.withRxLine rest).status = s.status := rfl
@[simp] theorem withRxLine_rxlen (rest : List RxAnswer) : (s.withRxLine rest).rxlen = s.rxlen := rfl
@[simp] theorem withRxLine_bufRdata (rest : List RxAnswer) : (s.withRxLine rest).bufRdata = s.bufRdata := rfl
@[simp] theorem withRxLine_done (rest : List RxAnswer) : (s.withRxLine rest).done = s.done := rfl
@[simp] theorem withRxLine_draws (rest : List RxAnswer) : (s.withRxLine rest).draws = s.draws := rfl
@[simp] theorem withRxLine_env (rest : List RxAnswer) : (s.withRxLine rest).env = { s.env with rxLine := rest } := rfl

/-! ## withTxLine -/

@[simp] theorem withTxLine_crc (rest : List TxAnswer) : (s.withTxLine rest).crc = s.crc := rfl
@[simp] theorem withTxLine_buf (rest : List TxAnswer) : (s.withTxLine rest).buf = s.buf := rfl
@[simp] theorem withTxLine_idx (rest : List TxAnswer) : (s.withTxLine rest).idx = s.idx := rfl
@[simp] theorem withTxLine_rem (rest : List TxAnswer) : (s.withTxLine rest).rem = s.rem := rfl
@[simp] theorem withTxLine_stage (rest : List TxAnswer) : (s.withTxLine rest).stage = s.stage := rfl
@[simp] theorem withTxLine_sid (rest : List TxAnswer) : (s.withTxLine rest).sid = s.sid := rfl
@[simp] theorem withTxLine_txlen (rest : List TxAnswer) : (s.withTxLine rest).txlen = s.txlen := rfl
@[simp] theorem withTxLine_sil (rest : List TxAnswer) : (s.withTxLine rest).sil = s.sil := rfl
@[simp] theorem withTxLine_status (rest : List TxAnswer) : (s.withTxLine rest).status = s.status := rfl
@[simp] theorem withTxLine_rxlen (rest : List TxAnswer) : (s.withTxLine rest).rxlen = s.rxlen := rfl
@[simp] theorem withTxLine_bufRdata (rest : List TxAnswer) : (s.withTxLine rest).bufRdata = s.bufRdata := rfl
@[simp] theorem withTxLine_done (rest : List TxAnswer) : (s.withTxLine rest).done = s.done := rfl
@[simp] theorem withTxLine_draws (rest : List TxAnswer) : (s.withTxLine rest).draws = s.draws := rfl
@[simp] theorem withTxLine_env (rest : List TxAnswer) : (s.withTxLine rest).env = { s.env with txLine := rest } := rfl

/-! ## withTicks -/

@[simp] theorem withTicks_crc (rest : Nat) : (s.withTicks rest).crc = s.crc := rfl
@[simp] theorem withTicks_buf (rest : Nat) : (s.withTicks rest).buf = s.buf := rfl
@[simp] theorem withTicks_idx (rest : Nat) : (s.withTicks rest).idx = s.idx := rfl
@[simp] theorem withTicks_rem (rest : Nat) : (s.withTicks rest).rem = s.rem := rfl
@[simp] theorem withTicks_stage (rest : Nat) : (s.withTicks rest).stage = s.stage := rfl
@[simp] theorem withTicks_sid (rest : Nat) : (s.withTicks rest).sid = s.sid := rfl
@[simp] theorem withTicks_txlen (rest : Nat) : (s.withTicks rest).txlen = s.txlen := rfl
@[simp] theorem withTicks_sil (rest : Nat) : (s.withTicks rest).sil = s.sil := rfl
@[simp] theorem withTicks_status (rest : Nat) : (s.withTicks rest).status = s.status := rfl
@[simp] theorem withTicks_rxlen (rest : Nat) : (s.withTicks rest).rxlen = s.rxlen := rfl
@[simp] theorem withTicks_bufRdata (rest : Nat) : (s.withTicks rest).bufRdata = s.bufRdata := rfl
@[simp] theorem withTicks_done (rest : Nat) : (s.withTicks rest).done = s.done := rfl
@[simp] theorem withTicks_draws (rest : Nat) : (s.withTicks rest).draws = s.draws := rfl
@[simp] theorem withTicks_env (rest : Nat) : (s.withTicks rest).env = { s.env with ticks := rest } := rfl

/-! ## withSignals -/

@[simp] theorem withSignals_crc (rest : List Signal) : (s.withSignals rest).crc = s.crc := rfl
@[simp] theorem withSignals_buf (rest : List Signal) : (s.withSignals rest).buf = s.buf := rfl
@[simp] theorem withSignals_idx (rest : List Signal) : (s.withSignals rest).idx = s.idx := rfl
@[simp] theorem withSignals_rem (rest : List Signal) : (s.withSignals rest).rem = s.rem := rfl
@[simp] theorem withSignals_stage (rest : List Signal) : (s.withSignals rest).stage = s.stage := rfl
@[simp] theorem withSignals_sid (rest : List Signal) : (s.withSignals rest).sid = s.sid := rfl
@[simp] theorem withSignals_txlen (rest : List Signal) : (s.withSignals rest).txlen = s.txlen := rfl
@[simp] theorem withSignals_sil (rest : List Signal) : (s.withSignals rest).sil = s.sil := rfl
@[simp] theorem withSignals_status (rest : List Signal) : (s.withSignals rest).status = s.status := rfl
@[simp] theorem withSignals_rxlen (rest : List Signal) : (s.withSignals rest).rxlen = s.rxlen := rfl
@[simp] theorem withSignals_bufRdata (rest : List Signal) : (s.withSignals rest).bufRdata = s.bufRdata := rfl
@[simp] theorem withSignals_done (rest : List Signal) : (s.withSignals rest).done = s.done := rfl
@[simp] theorem withSignals_draws (rest : List Signal) : (s.withSignals rest).draws = s.draws := rfl
@[simp] theorem withSignals_env (rest : List Signal) : (s.withSignals rest).env = { s.env with signals := rest } := rfl

/-! ## foldByte and sendByte -/

@[simp] theorem foldByte_crc : (foldByte s).crc = crcUpdate s.crc (s.readByte (lowIndex s.idx)).1 := rfl
@[simp] theorem foldByte_buf : (foldByte s).buf = s.buf := readByte_buf s _
@[simp] theorem foldByte_idx : (foldByte s).idx = s.idx + 1 := rfl
@[simp] theorem foldByte_rem : (foldByte s).rem = s.rem := readByte_rem s _
@[simp] theorem foldByte_stage : (foldByte s).stage = s.stage := readByte_stage s _
@[simp] theorem foldByte_sid : (foldByte s).sid = s.sid := readByte_sid s _
@[simp] theorem foldByte_txlen : (foldByte s).txlen = s.txlen := readByte_txlen s _
@[simp] theorem foldByte_sil : (foldByte s).sil = s.sil := readByte_sil s _
@[simp] theorem foldByte_status : (foldByte s).status = s.status := readByte_status s _
@[simp] theorem foldByte_rxlen : (foldByte s).rxlen = s.rxlen := readByte_rxlen s _
@[simp] theorem foldByte_bufRdata : (foldByte s).bufRdata = s.bufRdata := readByte_bufRdata s _
@[simp] theorem foldByte_done : (foldByte s).done = s.done := readByte_done s _
@[simp] theorem foldByte_env : (foldByte s).env = s.env := readByte_env s _
@[simp] theorem sendByte_crc : (sendByte s).crc = s.crc := readByte_crc s _
@[simp] theorem sendByte_buf : (sendByte s).buf = s.buf := readByte_buf s _
@[simp] theorem sendByte_idx : (sendByte s).idx = s.idx + 1 := rfl
@[simp] theorem sendByte_rem : (sendByte s).rem = s.rem := readByte_rem s _
@[simp] theorem sendByte_stage : (sendByte s).stage = s.stage := readByte_stage s _
@[simp] theorem sendByte_sid : (sendByte s).sid = s.sid := readByte_sid s _
@[simp] theorem sendByte_txlen : (sendByte s).txlen = s.txlen := readByte_txlen s _
@[simp] theorem sendByte_sil : (sendByte s).sil = s.sil := readByte_sil s _
@[simp] theorem sendByte_status : (sendByte s).status = s.status := readByte_status s _
@[simp] theorem sendByte_rxlen : (sendByte s).rxlen = s.rxlen := readByte_rxlen s _
@[simp] theorem sendByte_bufRdata : (sendByte s).bufRdata = s.bufRdata := readByte_bufRdata s _
@[simp] theorem sendByte_done : (sendByte s).done = s.done := readByte_done s _
@[simp] theorem sendByte_env : (sendByte s).env = { s.env with txStream := s.env.txStream ++ [(s.readByte (lowIndex s.idx)).1] } := rfl

/-! ## resetEvent (10_state.md R28) -/

@[simp] theorem resetEvent_crc : (resetEvent s).crc = 0xFFFF := rfl
@[simp] theorem resetEvent_buf : (resetEvent s).buf = [] := rfl
@[simp] theorem resetEvent_idx : (resetEvent s).idx = 0 := rfl
@[simp] theorem resetEvent_rem : (resetEvent s).rem = 0 := rfl
@[simp] theorem resetEvent_stage : (resetEvent s).stage = .idle := rfl
@[simp] theorem resetEvent_sid : (resetEvent s).sid = 0 := rfl
@[simp] theorem resetEvent_txlen : (resetEvent s).txlen = 0 := rfl
@[simp] theorem resetEvent_sil : (resetEvent s).sil = 0 := rfl
@[simp] theorem resetEvent_status : (resetEvent s).status = .none := rfl
@[simp] theorem resetEvent_rxlen : (resetEvent s).rxlen = 0 := rfl
@[simp] theorem resetEvent_done : (resetEvent s).done = false := rfl
@[simp] theorem resetEvent_env : (resetEvent s).env = s.env := rfl

end Sys2Proof.Machine
end

