-- ==== Sys2Proof/Laws/Ops.lean ====
section
/-! SUPPORT. One lemma for each shared operation that says once everything it can do. -/

namespace Sys2Proof.Machine

/-! ## Slices and operands -/

@[simp] theorem cap_eq : Config.cap = 256 := rfl
@[simp] theorem crcLen_eq : Config.crcLen = 2 := rfl
@[simp] theorem lenField_eq : Config.lenField = 1 := rfl
@[simp] theorem prefixLen_eq : Config.prefixLen = 6 := rfl

@[simp] theorem lowIndex_toNat (v : Len) : (lowIndex v).toNat = v.toNat % 256 := by
  simp [lowIndex, BitVec.extractLsb'_toNat]

theorem lowIndex_of_lt (v : Len) (h : v.toNat < 256) : (lowIndex v).toNat = v.toNat := by
  rw [lowIndex_toNat, Nat.mod_eq_of_lt h]

/-- `silence_us` does not wrap its 18 bits. -/
theorem silenceUs_toNat (ct : Half) : (silenceUs ct).toNat = 36 * ct.toNat / 10 := by
  have := ct.isLt
  simp only [silenceUs, Config.silNum, Config.silDen, BitVec.toNat_ofNat]
  omega

theorem isVar_eq (fc : Byte) : isVar fc = true ↔ fc = 0x0F ∨ fc = 0x10 := by
  simp [isVar, Config.varFc]

theorem frameLen_ge (fc l : Byte) : 8 ≤ frameLen fc l := by
  unfold frameLen; split <;> omega

/-! ## Reading and writing one byte -/

@[simp] theorem byteAt_clearDone (s : State) (a : Nat) : s.clearDone.byteAt a = s.byteAt a := rfl
@[simp] theorem byteAt_fail (k : Status) (s : State) (a : Nat) : (s.fail k).byteAt a = s.byteAt a := rfl
@[simp] theorem byteAt_completeOk (s : State) (a : Nat) : s.completeOk.byteAt a = s.byteAt a := rfl
@[simp] theorem byteAt_readByte (s : State) (i : Byte) (a : Nat) : (s.readByte i).2.byteAt a = s.byteAt a := by
  simp [State.byteAt]
@[simp] theorem byteAt_foldByte (s : State) (a : Nat) : (foldByte s).byteAt a = s.byteAt a := by
  simp [State.byteAt]
@[simp] theorem byteAt_sendByte (s : State) (a : Nat) : (sendByte s).byteAt a = s.byteAt a := by
  simp [State.byteAt]

@[simp] theorem byteAt_withHostCmds (rest : List CmdWord) (s : State) (a : Nat) :
    (s.withHostCmds rest).byteAt a = s.byteAt a := rfl
@[simp] theorem byteAt_withRxLine (rest : List RxAnswer) (s : State) (a : Nat) :
    (s.withRxLine rest).byteAt a = s.byteAt a := rfl
@[simp] theorem byteAt_withTxLine (rest : List TxAnswer) (s : State) (a : Nat) :
    (s.withTxLine rest).byteAt a = s.byteAt a := rfl
@[simp] theorem byteAt_withTicks (n : Nat) (s : State) (a : Nat) : (s.withTicks n).byteAt a = s.byteAt a := rfl
@[simp] theorem byteAt_withSignals (rest : List Signal) (s : State) (a : Nat) :
    (s.withSignals rest).byteAt a = s.byteAt a := rfl

@[simp] theorem byteAt_writeByte_same (s : State) (i b : Byte) : (s.writeByte i b).byteAt i.toNat = some b := by
  simp [State.byteAt]

theorem byteAt_writeByte_other (s : State) (i b : Byte) (a : Nat) (h : a ≠ i.toNat) :
    (s.writeByte i b).byteAt a = s.byteAt a := by
  simp [State.byteAt, lookup_store_other _ _ _ _ h]

theorem byteAt_takeByte_same (s : State) (b : Byte) : (takeByte b s).byteAt (lowIndex s.idx).toNat = some b := by
  simp [State.byteAt]

theorem byteAt_takeByte_other (s : State) (b : Byte) (a : Nat) (h : a ≠ (lowIndex s.idx).toNat) :
    (takeByte b s).byteAt a = s.byteAt a := by
  simpa [State.byteAt] using lookup_store_other s.buf _ a b h

/-- A byte that has been written reads as what was written, and the read changes nothing. -/
theorem readByte_listed (s : State) (i b : Byte) (h : s.byteAt i.toNat = some b) : s.readByte i = (b, s) := by
  unfold State.readByte State.byteAt at *; rw [h]

/-- A byte that nothing has written reads as the next free value. -/
theorem readByte_unlisted (s : State) (i : Byte) (h : s.byteAt i.toNat = none) :
    s.readByte i = (Config.freeByte s.draws, { s with draws := s.draws + 1 }) := by
  unfold State.readByte State.byteAt at *; rw [h]

/-! ## The single-owner rule -/

theorem whenIdle_idle (s : State) (r : Result) (h : s.stage = .idle) : whenIdle s r = r := by
  simp [whenIdle, h]

theorem whenIdle_busy (s : State) (r : Result) (h : s.stage ≠ .idle) : whenIdle s r = .refused .hostNotOwner := by
  unfold whenIdle; split <;> simp_all

/-- If a command answers a next state, the block was idle. -/
theorem whenIdle_next (s t : State) (r : Result) (h : whenIdle s r = .next t) : s.stage = .idle ∧ r = .next t := by
  by_cases hs : s.stage = .idle
  · exact ⟨hs, by rwa [whenIdle_idle s r hs] at h⟩
  · rw [whenIdle_busy s r hs] at h; cases h

/-! ## The end of a read stage -/

theorem endPrefix_due (fc : Byte) (s : State) (h : s.stage = .rxPrefix) (hr : s.rem = 0) :
    endPrefix fc s = .next (if isVar fc then { s with rem := 1, stage := .rxLen }
      else { s with rem := 2, stage := .rxTail }) := by
  unfold endPrefix; rw [if_pos ⟨h, hr⟩]; split <;> rfl

theorem endPrefix_not_due (fc : Byte) (s : State) (h : s.stage ≠ .rxPrefix ∨ s.rem ≠ 0) :
    endPrefix fc s = .refused .noFunctionByteDue := by
  unfold endPrefix; rw [if_neg]; tauto

/-- Whatever row a function byte has, running it is the end of the prefix stage for that byte. -/
theorem exec_decodeFunction (fc : Byte) (s : State) : exec (decodeFunction fc) s = endPrefix fc s := by
  unfold decodeFunction
  repeat' split
  all_goals subst_vars; rfl

/-- The function byte of a received prefix: which of the two shapes follows. -/
theorem runFunctionByte_eq (s : State) : runFunctionByte s = endPrefix (s.readByte 1).1 (s.readByte 1).2 :=
  exec_decodeFunction _ _

theorem endLength_long (l : Byte) (s : State) (h : 247 < l.toNat) : endLength l s = s.fail .failCap := by
  simp [endLength]; omega

theorem endLength_short (l : Byte) (s : State) (h : l.toNat ≤ 247) :
    endLength l s = { s with rem := BitVec.ofNat 9 (l.toNat + 2), stage := .rxTail } := by
  simp [endLength]; omega

theorem endOfRead_prefix (s : State) (fc : Byte) (h : s.stage = .rxPrefix) (hf : s.byteAt 1 = some fc) :
    endOfRead s = endPrefix fc s := by
  unfold endOfRead
  rw [h]
  show runFunctionByte s = _
  rw [runFunctionByte_eq, readByte_listed s 1 fc hf]

theorem endOfRead_tail (s : State) (h : s.stage = .rxTail) : endOfRead s = .next (endTail s) := by
  simp [endOfRead, h]

theorem endOfRead_length (s : State) (l : Byte) (h : s.stage = .rxLen)
    (hl : s.byteAt (lowIndex (s.idx - 1)).toNat = some l) : endOfRead s = .next (endLength l s) := by
  unfold endOfRead
  rw [h]
  show Host.Outcome.next (endLength _ _) = _
  rw [readByte_listed s _ l hl]

/-- A byte that does not end its stage. -/
theorem rxByte_more (b : Byte) (s : State) (h : s.rem ≠ 1) : rxByte b s = .next (takeByte b s) := by
  have : (takeByte b s).rem ≠ 0 := by rw [takeByte_rem]; intro h'; apply h; bv_omega
  unfold rxByte; rw [if_neg this]

/-- The byte that ends the prefix stage. -/
theorem rxByte_prefix (b fc : Byte) (s : State) (hs : s.stage = .rxPrefix) (h : s.rem = 1)
    (hf : (takeByte b s).byteAt 1 = some fc) : rxByte b s = endPrefix fc (takeByte b s) := by
  have h0 : (takeByte b s).rem = 0 := by rw [takeByte_rem, h]; rfl
  unfold rxByte; rw [if_pos h0]; exact endOfRead_prefix _ fc hs hf

/-- The byte that ends the length stage: it is the length. -/
theorem rxByte_length (b : Byte) (s : State) (hs : s.stage = .rxLen) (h : s.rem = 1) :
    rxByte b s = .next (endLength b (takeByte b s)) := by
  have h0 : (takeByte b s).rem = 0 := by rw [takeByte_rem, h]; rfl
  have hi : (takeByte b s).idx - 1 = s.idx := by rw [takeByte_idx]; bv_omega
  unfold rxByte; rw [if_pos h0]
  exact endOfRead_length _ b hs (by rw [hi]; exact byteAt_takeByte_same s b)

/-- The byte that ends the tail stage. -/
theorem rxByte_tail (b : Byte) (s : State) (hs : s.stage = .rxTail) (h : s.rem = 1) :
    rxByte b s = .next (endTail (takeByte b s)) := by
  have h0 : (takeByte b s).rem = 0 := by rw [takeByte_rem, h]; rfl
  unfold rxByte; rw [if_pos h0]; exact endOfRead_tail _ hs

/-! ## The checks and the silence interval -/

theorem checkFrame_crc (s : State) (h : s.crc ≠ 0) : checkFrame s = s.fail .failCrc := by
  unfold checkFrame; rw [if_pos h]

theorem checkFrame_addr (s : State) (b : Byte) (h : s.crc = 0) (hb : s.byteAt 0 = some b) (hne : b ≠ s.sid) :
    checkFrame s = s.fail .failAddr := by
  have hr := readByte_listed s 0 b hb
  unfold checkFrame; rw [if_neg (by simpa using h), hr, if_pos hne]

theorem checkFrame_ok (s : State) (h : s.crc = 0) (hb : s.byteAt 0 = some s.sid) : checkFrame s = startSilence s := by
  have hr := readByte_listed s 0 s.sid hb
  unfold checkFrame; rw [if_neg (by simpa using h), hr, if_neg (by simp)]


theorem startSilence_zero (s : State) (h : silenceUs s.env.charTime = 0) : startSilence s = s.completeOk := by
  simp [startSilence, h]

theorem startSilence_wait (s : State) (h : silenceUs s.env.charTime ≠ 0) :
    startSilence s = { s with sil := silenceUs s.env.charTime, stage := .rxSilence } := by
  unfold startSilence; rw [if_neg h]

/-- A tick outside `RX_SILENCE` changes nothing. -/
theorem tick_elsewhere (s : State) (h : s.stage ≠ .rxSilence) : tick s = s := by
  unfold tick; split <;> simp_all

theorem tick_counts (s : State) (h : s.stage = .rxSilence) (h1 : s.sil ≠ 1) : tick s = { s with sil := s.sil - 1 } := by
  have : s.sil - 1 ≠ 0 := by intro h'; apply h1; bv_omega
  unfold tick; rw [h]; exact if_neg this

theorem tick_last (s : State) (h : s.stage = .rxSilence) (h1 : s.sil = 1) :
    tick s = { s with sil := 0, status := .ok, rxlen := s.idx - 2, stage := .idle, done := true } := by
  simp [tick, h, h1, State.completeOk]

/-! ## The transmit stages -/

theorem foldByte_listed (s : State) (b : Byte) (h : s.byteAt (lowIndex s.idx).toNat = some b) :
    foldByte s = { s with crc := crcUpdate s.crc b, idx := s.idx + 1 } := by
  unfold foldByte; rw [readByte_listed s _ b h]

theorem sendByte_listed (s : State) (b : Byte) (h : s.byteAt (lowIndex s.idx).toNat = some b) :
    sendByte s = { s with idx := s.idx + 1, env := { s.env with txStream := s.env.txStream ++ [b] } } := by
  unfold sendByte; rw [readByte_listed s _ b h]

theorem foldByte_unlisted (s : State) (h : s.byteAt (lowIndex s.idx).toNat = none) :
    foldByte s =
      { s with crc := crcUpdate s.crc (Config.freeByte s.draws), idx := s.idx + 1, draws := s.draws + 1 } := by
  unfold foldByte; rw [readByte_unlisted s _ h]

theorem sendByte_unlisted (s : State) (h : s.byteAt (lowIndex s.idx).toNat = none) :
    sendByte s = { s with
      idx := s.idx + 1, draws := s.draws + 1
      env := { s.env with txStream := s.env.txStream ++ [Config.freeByte s.draws] } } := by
  unfold sendByte; rw [readByte_unlisted s _ h]

theorem crcStage_fold (s : State) (h : s.idx.toNat < s.txlen.toNat) : crcStage s = .next (foldByte s) := by
  simp [crcStage, h]

theorem crcStage_append (s : State) (h : s.txlen.toNat ≤ s.idx.toNat) : crcStage s = appendCrc s := by
  simp [crcStage, Nat.not_lt.mpr h]

/-- The append inside the buffer: the two bytes of the CRC and the next stage. -/
theorem appendCrc_inside (s : State) (h : s.txlen.toNat ≤ 254) :
    ∃ t, appendCrc s = .next t ∧ t.byteAt s.txlen.toNat = some (lo8 s.crc) ∧
      t.byteAt (s.txlen.toNat + 1) = some (hi8 s.crc) ∧
      (∀ a, a ≠ s.txlen.toNat → a ≠ s.txlen.toNat + 1 → t.byteAt a = s.byteAt a) ∧
      t = { s with buf := t.buf, idx := 0, stage := .txSend } ∧
      (Memory.wf s.buf = true → Memory.wf t.buf = true) := by
  have h0 : (lowIndex s.txlen).toNat = s.txlen.toNat := lowIndex_of_lt _ (by omega)
  have h1 : (lowIndex s.txlen + 1).toNat = s.txlen.toNat + 1 := by rw [BitVec.toNat_add, h0]; simp; omega
  have hc : (lowIndex s.txlen).toNat + 1 < Config.cap := by rw [h0]; simp; omega
  refine ⟨_, by unfold appendCrc; rw [if_pos hc], ?_, ?_, ?_, rfl, ?_⟩
  · rw [← h0]
    exact (byteAt_writeByte_other _ _ _ _ (by omega)).trans (byteAt_writeByte_same _ _ _)
  · rw [← h1]
    exact byteAt_writeByte_same _ _ _
  · intro a ha hb
    exact (byteAt_writeByte_other _ _ _ _ (by omega)).trans (byteAt_writeByte_other _ _ _ _ (by omega))
  · intro hw
    exact store_wf _ _ _ (by omega) (store_wf _ _ _ (by omega) hw)

theorem byteAccepted_last (s : State) (h : (s.idx + 1).toNat = s.txlen.toNat + 2) :
    byteAccepted s = (sendByte s).completeOk := by
  simp only [byteAccepted, sendByte_idx, crcLen_eq, h, if_true]

theorem byteAccepted_more (s : State) (h : (s.idx + 1).toNat ≠ s.txlen.toNat + 2) : byteAccepted s = sendByte s := by
  simp only [byteAccepted, sendByte_idx, crcLen_eq, h, if_false]

/-! ## The operations keep the canonical form -/

theorem takeByte_wf (b : Byte) (s : State) (h : Memory.wf s.buf = true) : Memory.wf (takeByte b s).buf = true :=
  store_wf _ _ _ (lowIndex s.idx).isLt h

theorem writeByte_wf (i b : Byte) (s : State) (h : Memory.wf s.buf = true) : Memory.wf (s.writeByte i b).buf = true :=
  store_wf _ _ _ i.isLt h

theorem readByte_wf (i : Byte) (s : State) (h : Memory.wf s.buf = true) : Memory.wf (s.readByte i).2.buf = true := by
  simpa using h

end Sys2Proof.Machine
end

