-- ==== Sys2Proof/Laws/PerInstr.lean ====
section
/-! SUPPORT. The statement made per instruction: the encoder's word for a well-formed instruction matches
the instruction's own row of spec/opcode_table.json. -/

namespace Sys2Proof.Laws

/-- Fields are masked one by one. -/
theorem packCommand_and (op p : BitVec 3) (a b : Len) (d e : Byte) :
    packCommand op a d &&& packCommand p b e = packCommand (op &&& p) (a &&& b) (d &&& e) := by
  show ((op ++ a) ++ d : BitVec (3 + 9 + 8)) &&& ((p ++ b) ++ e) = ((op &&& p) ++ (a &&& b)) ++ (d &&& e)
  rw [BitVec.and_append, BitVec.and_append]

theorem packA_and (a8 b8 : BitVec 1) (i j : Byte) : packA a8 i &&& packA b8 j = packA (a8 &&& b8) (i &&& j) := by
  show (a8 ++ i : BitVec (1 + 8)) &&& (b8 ++ j) = _
  rw [BitVec.and_append]; rfl

/-- The mask 0xE0000 keeps the operation code alone. -/
theorem maskOp (op : BitVec 3) (a : Len) (d : Byte) : packCommand op a d &&& 0xE0000 = packCommand op 0 0 := by
  rw [show (0xE0000 : CmdWord) = packCommand 7 0 0 by decide, packCommand_and]
  rw [show op &&& 7 = op by revert op; decide, show a &&& 0 = 0 from BitVec.and_zero,
    show d &&& 0 = 0 from BitVec.and_zero]

/-- The mask 0xF0000 keeps the operation code and `a[8]`. -/
theorem maskOpA8 (op : BitVec 3) (a8 : BitVec 1) (i d : Byte) :
    packCommand op (packA a8 i) d &&& 0xF0000 = packCommand op (packA a8 0) 0 := by
  rw [show (0xF0000 : CmdWord) = packCommand 7 (packA 1 0) 0 by decide, packCommand_and, packA_and]
  rw [show op &&& 7 = op by revert op; decide, show a8 &&& 1 = a8 by revert a8; decide,
    show i &&& 0 = 0 from BitVec.and_zero, show d &&& 0 = 0 from BitVec.and_zero]

theorem matchOp (op : BitVec 3) (m : CmdWord) (a : Len) (d : Byte) (h : packCommand op 0 0 = m) :
    rowMatches (.command m, .command 0xE0000) (.command (packCommand op a d)) = true := by
  simp only [rowMatches, maskOp, h, beq_self_eq_true]

theorem matchOpA8 (op : BitVec 3) (a8 : BitVec 1) (m : CmdWord) (i d : Byte) (h : packCommand op (packA a8 0) 0 = m) :
    rowMatches (.command m, .command 0xF0000) (.command (packCommand op (packA a8 i) d)) = true := by
  simp only [rowMatches, maskOpA8, h, beq_self_eq_true]

/-- The encoding of a well-formed instruction matches its row (30_encoding.md R62). -/
def EncodesInItsRow.Statement (i : Instr) : Prop := i.wf = true → rowMatches (tableRow i) (encode i) = true

theorem EncodesInItsRow.nop (a : Len) (d : Byte) : EncodesInItsRow.Statement (.nop a d) :=
  fun _ => matchOp 0 _ a d (by decide)
theorem EncodesInItsRow.crcInit (a : Len) (d : Byte) : EncodesInItsRow.Statement (.crcInit a d) :=
  fun _ => matchOp 1 _ a d (by decide)
theorem EncodesInItsRow.crcUpdate (a : Len) (d : Byte) : EncodesInItsRow.Statement (.crcUpdate a d) :=
  fun _ => matchOp 2 _ a d (by decide)
theorem EncodesInItsRow.recv (a : Len) (d : Byte) : EncodesInItsRow.Statement (.recv a d) :=
  fun _ => matchOp 3 _ a d (by decide)
theorem EncodesInItsRow.xmit (a : Len) (d : Byte) : EncodesInItsRow.Statement (.xmit a d) :=
  fun _ => matchOp 4 _ a d (by decide)
theorem EncodesInItsRow.bufWr (i d : Byte) : EncodesInItsRow.Statement (.bufWr i d) :=
  fun _ => matchOpA8 5 0 _ i d (by decide)
theorem EncodesInItsRow.bufRd (i d : Byte) : EncodesInItsRow.Statement (.bufRd i d) :=
  fun _ => matchOpA8 6 0 _ i d (by decide)
theorem EncodesInItsRow.reserved5Hi (x d : Byte) : EncodesInItsRow.Statement (.reserved5Hi x d) :=
  fun _ => matchOpA8 5 1 _ x d (by decide)
theorem EncodesInItsRow.reserved6Hi (x d : Byte) : EncodesInItsRow.Statement (.reserved6Hi x d) :=
  fun _ => matchOpA8 6 1 _ x d (by decide)
theorem EncodesInItsRow.reserved7 (a : Len) (d : Byte) : EncodesInItsRow.Statement (.reserved7 a d) :=
  fun _ => matchOp 7 _ a d (by decide)
theorem EncodesInItsRow.fcReadCoils : EncodesInItsRow.Statement .fcReadCoils := fun _ => rfl
theorem EncodesInItsRow.fcReadDiscreteInputs : EncodesInItsRow.Statement .fcReadDiscreteInputs := fun _ => rfl
theorem EncodesInItsRow.fcReadHoldingRegisters : EncodesInItsRow.Statement .fcReadHoldingRegisters := fun _ => rfl
theorem EncodesInItsRow.fcReadInputRegisters : EncodesInItsRow.Statement .fcReadInputRegisters := fun _ => rfl
theorem EncodesInItsRow.fcWriteSingleCoil : EncodesInItsRow.Statement .fcWriteSingleCoil := fun _ => rfl
theorem EncodesInItsRow.fcWriteSingleHoldingRegister : EncodesInItsRow.Statement .fcWriteSingleHoldingRegister := fun _ => rfl
theorem EncodesInItsRow.fcWriteMultipleCoils : EncodesInItsRow.Statement .fcWriteMultipleCoils := fun _ => rfl
theorem EncodesInItsRow.fcWriteMultipleHoldingRegisters : EncodesInItsRow.Statement .fcWriteMultipleHoldingRegisters := fun _ => rfl
theorem EncodesInItsRow.fcOther (fc : Byte) : EncodesInItsRow.Statement (.fcOther fc) := fun _ => by
  show (fc &&& 0 == 0) = true
  rw [show fc &&& 0 = 0 from BitVec.and_zero]; rfl

end Sys2Proof.Laws
end

