-- ==== Sys2Proof/Laws/Step.lean ====
section
/-! SUPPORT. What one step can do: cite these instead of unfolding the step function. -/

namespace Sys2Proof.Machine

/-- With nothing coming from outside first, a step is the step of the agent whose turn it is. -/
theorem step_undisturbed (s : State) (h : s.Undisturbed) : step s = agentStep s.clearDone := by
  simp only [State.Undisturbed] at h
  simp [step, stepWith, h]

/-- Everything a step can be. -/
theorem step_cases (s : State) :
    (s.env.signals = [] ∧ step s = agentStep s.clearDone) ∨
    (∃ rest, s.env.signals = .quiet :: rest ∧
      step s = agentStep (s.clearDone.withSignals rest)) ∨
    (∃ rest, s.env.signals = .reset :: rest ∧
      step s = .next (resetEvent (s.clearDone.withSignals rest))) ∨
    (∃ ct rest, s.env.signals = .charTime ct :: rest ∧
      step s = .next { s.clearDone with env := { s.env with signals := rest, charTime := ct } }) ∨
    (∃ level rest, s.env.signals = .avail level :: rest ∧
      step s = .next { s.clearDone with env := { s.env with signals := rest, avail := level } }) := by
  rcases h : s.env.signals with _ | ⟨_ | _ | ct | level, rest⟩
  · exact .inl ⟨rfl, step_undisturbed s h⟩
  · exact .inr (.inl ⟨rest, rfl, by simp [step, stepWith, h]⟩)
  · exact .inr (.inr (.inl ⟨rest, rfl, by simp [step, stepWith, h]⟩))
  · exact .inr (.inr (.inr (.inl ⟨ct, rest, rfl, by simp [step, stepWith, h]⟩)))
  · exact .inr (.inr (.inr (.inr ⟨level, rest, rfl, by simp [step, stepWith, h]⟩)))

/-! ## The step of each agent, by stage -/

theorem agentStep_idle (s : State) (h : s.stage = .idle) : agentStep s = idleStage s := by simp [agentStep, h]
theorem agentStep_rxCheck (s : State) (h : s.stage = .rxCheck) : agentStep s = .next (checkFrame s) := by
  simp [agentStep, h]
theorem agentStep_rxSilence (s : State) (h : s.stage = .rxSilence) : agentStep s = silenceStage s := by
  simp [agentStep, h]
theorem agentStep_txCrc (s : State) (h : s.stage = .txCrc) : agentStep s = crcStage s := by simp [agentStep, h]
theorem agentStep_txSend (s : State) (h : s.stage = .txSend) : agentStep s = sendStage s := by simp [agentStep, h]

theorem agentStep_read (s : State) (h : s.stage.isRead = true) : agentStep s = readStage s := by
  unfold agentStep
  cases hs : s.stage <;> simp_all [Stage.isRead]

theorem idleStage_cmd (s : State) (cw : CmdWord) (rest : List CmdWord) (h : s.env.hostCmds = cw :: rest) :
    idleStage s = exec (decodeCommand cw) (s.withHostCmds rest) := by
  simp [idleStage, h, decode]

theorem idleStage_wait (s : State) (h : s.env.hostCmds = []) : idleStage s = .next s := by simp [idleStage, h]

theorem readStage_byte (s : State) (b : Byte) (rest : List RxAnswer) (hr : s.rem ≠ 0)
    (h : s.env.rxLine = .byte b :: rest) :
    readStage s = rxByte b (s.withRxLine rest) := by
  unfold readStage; rw [if_neg hr, h]

theorem readStage_fail (s : State) (rest : List RxAnswer) (hr : s.rem ≠ 0) (h : s.env.rxLine = .fail :: rest) :
    readStage s = .next ((s.withRxLine rest).fail .failRead) := by
  unfold readStage; rw [if_neg hr, h]; rfl

theorem readStage_wait (s : State) (hr : s.rem ≠ 0) (h : s.env.rxLine = []) : readStage s = .next s := by
  unfold readStage; rw [if_neg hr, h]

theorem sendStage_accept (s : State) (rest : List TxAnswer) (h : s.env.txLine = .accept :: rest) :
    sendStage s = .next (byteAccepted (s.withTxLine rest)) := by simp [sendStage, h]

theorem sendStage_fail (s : State) (rest : List TxAnswer) (h : s.env.txLine = .fail :: rest) :
    sendStage s = .next ((s.withTxLine rest).fail .failWrite) := by simp [sendStage, h, writeFailure]

theorem sendStage_wait (s : State) (h : s.env.txLine = []) : sendStage s = .next s := by simp [sendStage, h]

theorem silenceStage_tick (s : State) (n : Nat) (h : s.env.ticks = n + 1) :
    silenceStage s = .next (tick (s.withTicks n)) := by simp [silenceStage, h]

theorem silenceStage_wait (s : State) (h : s.env.ticks = 0) : silenceStage s = .next s := by simp [silenceStage, h]

end Sys2Proof.Machine
end

