-- ==== Sys2Proof/Machine/ProtocolEngine.lean ====
section
/-! DEFINITION. The host as the document describes it (44_host_protocol_engine.md R170 to R180): outside the
block (00_scope.md section 3), used by no step and by no meaning. It drives the block through the command
channel and the outputs only. What the document leaves to the host (93_implementation_defined.md U13) is a
field of `HostPolicy` (log 22). -/

namespace Sys2Proof.Machine

/-- The exception taxonomy of 30_encoding.md R72. -/
inductive ExceptionCode where
  | illegalFunction | illegalDataAddress | illegalDataValue | slaveDeviceFailure | acknowledge
  | slaveDeviceBusy | negativeAcknowledge | memoryParityError | gatewayPathUnavailable
  | gatewayTargetUnresponsive
  deriving DecidableEq, Repr

/-- The codes' values, in the order of 30_encoding.md R72. -/
def exceptionByte : ExceptionCode → Byte
  | .illegalFunction => 0x01
  | .illegalDataAddress => 0x02
  | .illegalDataValue => 0x03
  | .slaveDeviceFailure => 0x04
  | .acknowledge => 0x05
  | .slaveDeviceBusy => 0x06
  | .negativeAcknowledge => 0x07
  | .memoryParityError => 0x08
  | .gatewayPathUnavailable => 0x0A
  | .gatewayTargetUnresponsive => 0x0B

/-- The four data-access hooks over a device `σ` (R178). A coil or a holding register takes `none` to be
read and `some v` to be written; a hook answers a value or an exception code, and the device after. -/
structure Hooks (σ : Type) where
  readDiscreteInput : Nat → σ → Except ExceptionCode Bool × σ
  accessCoil : Nat → Option Bool → σ → Except ExceptionCode Bool × σ
  readInputRegister : Nat → σ → Except ExceptionCode Half × σ
  accessHoldingRegister : Nat → Option Half → σ → Except ExceptionCode Half × σ

/-- The default hooks of R178 as 44_host_protocol_engine.md takes them: all succeed, read 0 and ignore
writes (90_conflicts.md C4). -/
def defaultHooks (σ : Type) : Hooks σ :=
  { readDiscreteInput := fun _ d => (.ok false, d)
    accessCoil := fun _ _ d => (.ok false, d)
    readInputRegister := fun _ d => (.ok 0, d)
    accessHoldingRegister := fun _ _ d => (.ok 0, d) }

/-- What a handler answers: which buffer bytes to write and the envelope length to send; or nothing, which
only a host's own policy for an open count can choose (`HostPolicy.beyond`). -/
inductive Reply where
  | send (writes : List (Nat × Byte)) (len : Nat)
  | nothing
  deriving DecidableEq, Repr

/-- The host agent: its device's hooks (R178), and what the document leaves it to choose (log 22). -/
structure HostPolicy (σ : Type) where
  hooks : Hooks σ
  /-- The unused high bits of the last packed byte are the bits of `pad` at their places
  (91_not_in_source.md N12): each is free, and none depends on another. -/
  pad : Byte
  /-- What `transceive` returns after a transmit that ended in `OK` or not (91_not_in_source.md N11). -/
  afterTransmit : Bool → Bool
  /-- What the host does with a request whose count the document leaves open (93_implementation_defined.md
  U13; R172, R175, R181 (b)): the answer to the function code, base and count, and the device after. It may
  call hooks or not, reject the request, cut its length, or answer nothing. -/
  beyond : Byte → Nat → Nat → σ → Reply × σ
  /-- What `transceive` returns where `beyond` answers nothing. -/
  afterNothing : Bool

/-! ## The handlers, on the values the host has read -/

/-- A 16-bit big-endian argument from its two bytes (R171; 20_memory.md R44). -/
def argument (hi lo : Byte) : Nat := hi.toNat * 256 + lo.toNat

/-- A hook called for `count` indices from `base` on; the first exception ends the loop at once (R180). -/
def readEach {σ α : Type} (hook : Nat → σ → Except ExceptionCode α × σ) :
    Nat → Nat → σ → Except ExceptionCode (List α) × σ
  | 0, _, d => (.ok [], d)
  | count + 1, base, d =>
    match hook base d with
    | (.error e, d') => (.error e, d')
    | (.ok v, d') =>
      match readEach hook count (base + 1) d' with
      | (.error e, d'') => (.error e, d'')
      | (.ok vs, d'') => (.ok (v :: vs), d'')

/-- Eight results as a byte, the first in bit 0 (R172); a bit past the last result is that bit of `pad`,
which the document does not state (91_not_in_source.md N12). -/
def packByte (pad : Byte) (bits : List Bool) : Byte :=
  BitVec.ofNat 8 ((List.range 8).foldr (fun j n => 2 * n + (bits.getD j (pad.getLsbD j)).toNat) 0)

/-- Results packed LSB-first into `ceil(count / 8)` bytes (R172). -/
def packBits (pad : Byte) (bits : List Bool) : List Byte :=
  (List.range ((bits.length + 7) / 8)).map fun k => packByte pad (bits.drop (8 * k))

/-- Bytes with the buffer indices they go to, from index `i` on. -/
def placeFrom (i : Nat) (bytes : List Byte) : List (Nat × Byte) :=
  (List.range bytes.length).map fun k => (i + k, bytes.getD k 0)

/-- A normal response: byte count, then the data (R172, R175). -/
def dataReply (bytes : List Byte) : Reply :=
  .send (placeFrom 2 (BitVec.ofNat 8 bytes.length :: bytes)) (3 + bytes.length)

/-- The exception response: bit 7 of the function byte set, then the code (R179). DESIGN CHOICE (log 22): it
writes `BUF[1]` and `BUF[2]` only; results that a loop gathered before the exception (R180) are nowhere in
the buffer, since the document does not say when they are written. -/
def exceptionReply (fc : Byte) (e : ExceptionCode) : Reply :=
  .send [(1, fc ||| 0x80), (2, exceptionByte e)] 3

/-- The largest count of coils or discrete inputs that R172 settles. -/
def bitsMax : Nat := 2000

/-- The largest count of registers whose response stays inside `BUF` (R175): 126 of them end at `BUF[254]`,
and the `XMIT 255` that R175 then gives fails in the block with `FAIL_CAP` (42_rtu_transmit.md R140). -/
def wordsMax : Nat := 126

/-- Read coils and read discrete inputs (R172, R173). DESIGN CHOICE (log 22): every hook is called before any
byte of the response is written, where the document gives no order between the two (R180). A count above
`bitsMax` goes to the host's policy before any hook is called (R172, R181 (b); log 22). -/
def bitsReply {σ : Type} (p : HostPolicy σ) (hook : Nat → σ → Except ExceptionCode Bool × σ) (fc : Byte)
    (base count : Nat) (d : σ) : Reply × σ :=
  if bitsMax < count then p.beyond fc base count d
  else
    match readEach hook count base d with
    | (.error e, d') => (exceptionReply fc e, d')
    | (.ok bits, d') => (dataReply (packBits p.pad bits), d')

/-- Read input registers, big-endian per register (R175). DESIGN CHOICE (log 22): every hook is called before
any byte of the response is written, as in `bitsReply`. A count above `wordsMax` goes to the host's policy
before any hook is called (93_implementation_defined.md U13; R181 (b); log 22). -/
def wordsReply {σ : Type} (p : HostPolicy σ) (hook : Nat → σ → Except ExceptionCode Half × σ) (fc : Byte)
    (base count : Nat) (d : σ) : Reply × σ :=
  if wordsMax < count then p.beyond fc base count d
  else
    match readEach hook count base d with
    | (.error e, d') => (exceptionReply fc e, d')
    | (.ok words, d') => (dataReply (words.flatMap fun w => [hi8 w, lo8 w]), d')

/-- Write single coil: any value above 0 writes true, and the request is echoed (R176). -/
def writeCoilReply {σ : Type} (h : Hooks σ) (fc : Byte) (address value : Nat) (d : σ) : Reply × σ :=
  match h.accessCoil address (some (decide (0 < value))) d with
  | (.error e, d') => (exceptionReply fc e, d')
  | (.ok _, d') => (.send [] 6, d')

/-- The dispatch over the function code `fc`, with the two arguments of the request (R170 to R177). -/
def handle {σ : Type} (p : HostPolicy σ) (fc : Byte) (arg0 arg1 : Nat) (d : σ) : Reply × σ :=
  if fc = 0x01 then bitsReply p (fun i => p.hooks.accessCoil i none) fc arg0 arg1 d
  else if fc = 0x02 then bitsReply p p.hooks.readDiscreteInput fc arg0 arg1 d
  else if fc = 0x04 then wordsReply p p.hooks.readInputRegister fc arg0 arg1 d
  else if fc = 0x05 then writeCoilReply p.hooks fc arg0 arg1 d
  else (exceptionReply fc .illegalFunction, d)

/-- The words that put an answer into the buffer and send it (R170): `BUF_WR` for each byte, then `XMIT`. -/
def replyWords (sid : Byte) (writes : List (Nat × Byte)) (len : Nat) : List CmdWord :=
  writes.map (fun w => packCommand 5 (packA 0 (BitVec.ofNat 8 w.1)) w.2) ++ [packCommand 4 (BitVec.ofNat 9 len) sid]

/-! ## Driving the block: presenting a word and waiting for `busy` to fall (30_encoding.md R73, `WAIT`) -/

/-- Run the block until the word has been taken and the block is idle. The error is the state in which
`fuel` steps have not got there, or in which a step stopped. -/
def waitIdle : Nat → State → Except State State
  | 0, s => if s.stage = .idle ∧ s.env.hostCmds = [] then .ok s else .error s
  | fuel + 1, s =>
    if s.stage = .idle ∧ s.env.hostCmds = [] then .ok s
    else
      match step s with
      | .next t => waitIdle fuel t
      | .fault _ | .refused _ => .error s

/-- Present one word and wait. -/
def present (fuel : Nat) (cw : CmdWord) (s : State) : Except State State := waitIdle fuel (s.withHostCmds [cw])

/-- Present words, one at a time. -/
def presentAll (fuel : Nat) : List CmdWord → State → Except State State
  | [], s => .ok s
  | cw :: rest, s =>
    match present fuel cw s with
    | .ok t => presentAll fuel rest t
    | .error t => .error t

/-- The host reading bytes of the buffer: `BUF_RD` for each, and the answer on `buf_rdata` (R170; R162). A
byte that nothing has written comes as the free value that `BUF_RD` gives (log 1). -/
def hostRead (fuel : Nat) : List Byte → State → Except State (List Byte × State)
  | [], s => .ok ([], s)
  | i :: rest, s =>
    match present fuel (packCommand 6 (packA 0 i) 0) s with
    | .error t => .error t
    | .ok t =>
      match hostRead fuel rest t with
      | .error u => .error u
      | .ok (bs, u) => .ok (t.bufRdata :: bs, u)

/-- The buffer indices the host reads for a function code, before it writes any (R171; R181 (a)): the
arguments at 2 to 5, where a handler uses them. -/
def argumentIndices (fc : Byte) : List Byte :=
  if fc = 0x01 ∨ fc = 0x02 ∨ fc = 0x04 ∨ fc = 0x05 then [2, 3, 4, 5] else []

/-! ## The cycle -/

/-- How a cycle ends for its caller. -/
inductive CycleEnd where
  /-- `transceive` returns the value. -/
  | returned (value : Bool)
  /-- The block did not come back to idle within the fuel of one wait: the call still blocks
  (70_reset_and_hazards.md R242, R244). -/
  | blocked
  deriving DecidableEq, Repr

/-- The part of the cycle after a receive that ended in `OK` (R170): read the request, dispatch, write the
response, send it. -/
def answerRequest {σ : Type} (fuel : Nat) (p : HostPolicy σ) (sid : Byte) (s : State) (d : σ) :
    CycleEnd × State × σ :=
  match hostRead fuel [1] s with
  | .error t => (.blocked, t, d)
  | .ok (head, t) =>
    match hostRead fuel (argumentIndices (head.getD 0 0)) t with
    | .error u => (.blocked, u, d)
    | .ok (args, u) =>
      match handle p (head.getD 0 0) (argument (args.getD 0 0) (args.getD 1 0))
          (argument (args.getD 2 0) (args.getD 3 0)) d with
      | (.nothing, d') => (.returned p.afterNothing, u, d')
      | (.send writes len, d') =>
        match presentAll fuel (replyWords sid writes len) u with
        | .error v => (.blocked, v, d')
        | .ok v => (.returned (p.afterTransmit v.isOk), v, d')

/-- `transceive` (R170), on an idle block: `false` at once where no data is available, `false` without
transmitting where the receive does not end in `OK`, else the answer. `fuel` bounds each wait. -/
def transceive {σ : Type} (fuel : Nat) (p : HostPolicy σ) (sid : Byte) (s : State) (d : σ) :
    CycleEnd × State × σ :=
  if s.availOut = false then (.returned false, s, d)
  else
    match present fuel (packCommand 3 0 sid) s with
    | .error t => (.blocked, t, d)
    | .ok t => if t.isOk then answerRequest fuel p sid t d else (.returned false, t, d)

end Sys2Proof.Machine
end

