-- ==== Sys2Proof/Laws/ProtocolEngine.lean ====
section
/-! SUPPORT. What the documented host's waits and its cycle can do: cite these instead of unfolding them. -/

namespace Sys2Proof.Machine

/-- A wait that ends, ends idle with the word taken. -/
theorem waitIdle_idle (fuel : Nat) (s t : State) (h : waitIdle fuel s = .ok t) :
    t.stage = .idle ∧ t.env.hostCmds = [] := by
  induction fuel generalizing s with
  | zero =>
    unfold waitIdle at h
    split at h
    · cases h; assumption
    · cases h
  | succ fuel ih =>
    unfold waitIdle at h
    split at h
    · cases h; assumption
    · split at h
      · exact ih _ h
      · cases h
      · cases h

/-- 44_host_protocol_engine.md R170: no data, `false` at once, and the block and the device untouched. -/
theorem transceive_no_data {σ : Type} (fuel : Nat) (p : HostPolicy σ) (sid : Byte) (s : State) (d : σ)
    (h : s.availOut = false) : transceive fuel p sid s d = (.returned false, s, d) := by
  simp [transceive, h]

/-- 44_host_protocol_engine.md R170: a framing failure, `false` without a further word. -/
theorem transceive_framing_failure {σ : Type} (fuel : Nat) (p : HostPolicy σ) (sid : Byte) (s t : State) (d : σ)
    (h : s.availOut = true) (hr : present fuel (packCommand 3 0 sid) s = .ok t) (hk : t.isOk = false) :
    transceive fuel p sid s d = (.returned false, t, d) := by
  unfold transceive; rw [hr]; simp [h, hk]

/-- 44_host_protocol_engine.md R170: after a good receive the cycle is the answer to the request. -/
theorem transceive_answers {σ : Type} (fuel : Nat) (p : HostPolicy σ) (sid : Byte) (s t : State) (d : σ)
    (h : s.availOut = true) (hr : present fuel (packCommand 3 0 sid) s = .ok t) (hk : t.isOk = true) :
    transceive fuel p sid s d = answerRequest fuel p sid t d := by
  unfold transceive; rw [hr]; simp [h, hk]

/-- 44_host_protocol_engine.md R172, R181 (b): above 2000 the answer is the host's policy. -/
theorem bitsReply_beyond {σ : Type} (p : HostPolicy σ) (hook : Nat → σ → Except ExceptionCode Bool × σ) (fc : Byte)
    (base count : Nat) (d : σ) (h : bitsMax < count) :
    bitsReply p hook fc base count d = p.beyond fc base count d := by
  simp [bitsReply, h]

/-- 44_host_protocol_engine.md R175, R181 (b): above 126 the answer is the host's policy. -/
theorem wordsReply_beyond {σ : Type} (p : HostPolicy σ) (hook : Nat → σ → Except ExceptionCode Half × σ) (fc : Byte)
    (base count : Nat) (d : σ) (h : wordsMax < count) :
    wordsReply p hook fc base count d = p.beyond fc base count d := by
  simp [wordsReply, h]

end Sys2Proof.Machine
end

