-- ==== Sys2Proof/Tests/Slice0.lean ====
section
/-! SUPPORT. Tests: expected results are the spec's own words, examples and vectors (the rule or vector is
named at each), and the witnesses: a concrete state and operands that meet the hypotheses of a statement. -/

namespace Sys2Proof.Tests
open Sys2Proof.Machine

/-! ## Well-formedness: an ill-formed term for the one check (30_encoding.md R67: the default row is for
the bytes that no named row takes) -/

theorem test_wf_refuses_named_bytes_as_other :
    [0x01, 0x02, 0x03, 0x04, 0x05, 0x06, 0x0F, 0x10].all (fun n => !(Instr.fcOther (BitVec.ofNat 8 n)).wf) = true := by
  decide
theorem test_wf_takes_other_bytes :
    [0x00, 0x07, 0x0E, 0x11, 0x8F, 0x90, 0xFF].all (fun n => (Instr.fcOther (BitVec.ofNat 8 n)).wf) = true := by decide

/-! ## Decoding: words written out from the tables of 30_encoding.md R61, R62, R67 (`op`, `a`, `d`) -/

theorem test_decode_nop : decodeTableWord 24 0b00000000100000011 = some (.nop 1 3) := by decide
theorem test_decode_nop_all_ignored_bits : decodeTableWord 24 0x1FFFF = some (.nop 0x1FF 0xFF) := by decide
theorem test_decode_crcInit : decodeTableWord 24 0b00100000000000000000 = some (.crcInit 0 0) := by decide
theorem test_decode_crcUpdate : decodeTableWord 24 0b01000000000000110001 = some (.crcUpdate 0 0x31) := by decide
theorem test_decode_recv : decodeTableWord 24 0b01100000000000010001 = some (.recv 0 0x11) := by decide
theorem test_decode_xmit : decodeTableWord 24 0b10000000010000010001 = some (.xmit 4 0x11) := by decide
theorem test_decode_xmit_length_has_nine_bits : decodeTableWord 24 0b10010000000000010001 = some (.xmit 256 0x11) := by
  decide
theorem test_decode_bufWr : decodeTableWord 24 0b10100000001000000001 = some (.bufWr 2 1) := by decide
theorem test_decode_bufRd : decodeTableWord 24 0b11000000010100000000 = some (.bufRd 5 0) := by decide
theorem test_decode_reserved5Hi : decodeTableWord 24 0b10110000001000000001 = some (.reserved5Hi 2 1) := by decide
theorem test_decode_reserved6Hi : decodeTableWord 24 0b11010000010100000000 = some (.reserved6Hi 5 0) := by decide
theorem test_decode_reserved7 : decodeTableWord 24 0b11110000000000000111 = some (.reserved7 0x100 7) := by decide
theorem test_decode_twenty_one_bits : decodeTableWord 24 0x100000 = none := by decide
theorem test_decode_four_bytes : decodeBytes [0, 0, 0, 0] = .error (.wrongLength 4) := rfl
theorem test_decode_fcReadCoils : decodeTableWord 8 0b00000001 = some .fcReadCoils := by decide
theorem test_decode_fcReadDiscreteInputs : decodeTableWord 8 0b00000010 = some .fcReadDiscreteInputs := by decide
theorem test_decode_fcReadHoldingRegisters : decodeTableWord 8 0b00000011 = some .fcReadHoldingRegisters := by decide
theorem test_decode_fcReadInputRegisters : decodeTableWord 8 0b00000100 = some .fcReadInputRegisters := by decide
theorem test_decode_fcWriteSingleCoil : decodeTableWord 8 0b00000101 = some .fcWriteSingleCoil := by decide
theorem test_decode_fcWriteSingleHoldingRegister : decodeTableWord 8 0b00000110 = some .fcWriteSingleHoldingRegister := by
  decide
theorem test_decode_fcWriteMultipleCoils : decodeTableWord 8 0b00001111 = some .fcWriteMultipleCoils := by decide
theorem test_decode_fcWriteMultipleHoldingRegisters :
    decodeTableWord 8 0b00010000 = some .fcWriteMultipleHoldingRegisters := by decide
theorem test_decode_fcOther : decodeTableWord 8 0b10010000 = some (.fcOther 0x90) := by decide

/-! ## The states the tests start from -/

/-- The bytes of a frame in the buffer, from index 0 on. -/
def bufferOf (l : List Byte) : Memory := (List.range l.length).map fun i => (i, l.getD i 0)

/-- An idle block about to take the words `cmds`. -/
def idleWith (cmds : List CmdWord) : State := { State.reset with env := { Env.quiet with hostCmds := cmds } }

/-- A block that has received `l`, in the stage `g`, `rem` bytes still to come, the transport about to
answer `line`. -/
def receiving (g : Stage) (l : List Byte) (rem : Len) (line : List RxAnswer) : State :=
  { State.reset with
    buf := bufferOf l, crc := crc16 l, idx := BitVec.ofNat 9 l.length, rem := rem, stage := g, sid := 0x11
    env := { Env.quiet with rxLine := line } }

/-- A block transmitting the envelope `e`, in the stage `g`, at index `idx`, the transport about to answer
`line`. -/
def transmitting (g : Stage) (e : List Byte) (idx : Len) (line : List TxAnswer) : State :=
  { State.reset with
    buf := bufferOf (if g = .txSend then e ++ le16 (crc16 e) else e)
    crc := if g = .txSend then crc16 e else crc16 (e.take idx.toNat)
    idx := idx, txlen := BitVec.ofNat 9 e.length, stage := g
    env := { Env.quiet with txLine := line } }

/-- The result is a next state with the property. -/
def holdsAfter (r : Result) (p : State → Bool) : Bool :=
  match r with
  | .next t => p t
  | .fault _ | .refused _ => false

/-- The result is a refusal with this reason. -/
def refusedWith (r : Result) (why : Refusal) : Bool :=
  match r with
  | .refused w => w == why
  | .next _ | .fault _ => false

/-! ## One step for each instruction -/

/-- V-HA-3: `CW` = 0x1FFFF changes nothing. -/
theorem test_nop : holdsAfter (step (idleWith [0x1FFFF])) (· == State.reset) = true := by decide
/-- 40_crc_engine.md R94: from 0x1234, 0xFFFF. -/
theorem test_crcInit : holdsAfter (step { idleWith [0x20000] with crc := 0x1234 }) (·.crc == 0xFFFF) = true := by
  decide
/-- V-HA-4. -/
theorem test_crcUpdate : holdsAfter (step (idleWith [0x40011])) (·.crc == 0x4C7F) = true := by decide
/-- P4, row 11. -/
theorem test_crcUpdate_low_byte_of_the_crc :
    holdsAfter (step { idleWith [0x40037] with crc := 0x4B37 }) (·.crc == 0x004B) = true := by decide
/-- 41_rtu_receive.md R110, over what an earlier receive left. -/
theorem test_recv : holdsAfter (step { idleWith [0x60011] with crc := 0, idx := 8, status := .ok, rxlen := 6, sil := 9 })
    (fun t => t.stage == .rxPrefix && t.sid == 0x11 && t.crc == 0xFFFF && t.idx == 0 && t.rem == 6 &&
      t.status == .none && t.rxlen == 0 && t.sil == 9 && !t.done) = true := by decide
/-- 42_rtu_transmit.md R140, a length of 254 and `RXLEN` kept. -/
theorem test_xmit : holdsAfter (step { idleWith [0x8FE11] with crc := 0, idx := 8, rxlen := 6, status := .ok })
    (fun t => t.stage == .txCrc && t.sid == 0x11 && t.txlen == 254 && t.crc == 0xFFFF && t.idx == 0 &&
      t.status == .none && t.rxlen == 6) = true := by decide
/-- V-TX-5, P5 row 2. -/
theorem test_xmit_too_long : holdsAfter (step { idleWith [0x8FF11] with crc := 0xBDFA, idx := 7 })
    (fun t => t.stage == .idle && t.status == .failCap && t.txlen == 255 && t.crc == 0xBDFA && t.idx == 7 && t.done) =
    true := by decide
/-- 43_host_access.md R161: `BUF_WR 2, 0x01`. -/
theorem test_bufWr : holdsAfter (step { idleWith [0xA0201] with buf := bufferOf [0x11, 1, 0, 0] })
    (fun t => t.buf == bufferOf [0x11, 1, 1, 0]) = true := by decide
/-- V-HA-2: index 255. -/
theorem test_bufWr_last_index : holdsAfter (step (idleWith [0xAFFAA])) (·.byteAt 255 == some 0xAA) = true := by decide
/-- V-HA-1: `BUF_RD 5` after V-FRM-1. -/
theorem test_bufRd :
    holdsAfter (step { idleWith [0xC0500] with buf := bufferOf [0x11, 1, 0, 0, 0, 8, 0x3F, 0x5C] })
      (fun t => t.bufRdata == 8 && t.draws == 0) = true := by decide
/-- 93_implementation_defined.md U6: a read of an unwritten byte completes, with a fresh free value. -/
theorem test_bufRd_unwritten : holdsAfter (step (idleWith [0xC0500])) (fun t => t.draws == 1 && t.buf == []) = true := by
  decide
/-- V-HA-3. -/
theorem test_reserved5Hi : holdsAfter (step (idleWith [0xB0000])) (· == State.reset) = true := by decide
/-- V-HA-3. -/
theorem test_reserved6Hi : holdsAfter (step (idleWith [0xD0000])) (· == State.reset) = true := by decide
/-- V-HA-3. -/
theorem test_reserved7 : holdsAfter (step (idleWith [0xE0000])) (· == State.reset) = true := by decide

/-- What 41_rtu_receive.md R113 makes of a function byte, at the end of a prefix. -/
def afterFunctionByte (w : Nat) : Option (Stage × Len) :=
  match step (State.reset.withFetchWord 8 w) with
  | .next t => some (t.stage, t.rem)
  | .fault _ | .refused _ => none

theorem test_fcReadCoils : afterFunctionByte 0x01 = some (.rxTail, 2) := by decide
theorem test_fcReadDiscreteInputs : afterFunctionByte 0x02 = some (.rxTail, 2) := by decide
theorem test_fcReadHoldingRegisters : afterFunctionByte 0x03 = some (.rxTail, 2) := by decide
theorem test_fcReadInputRegisters : afterFunctionByte 0x04 = some (.rxTail, 2) := by decide
theorem test_fcWriteSingleCoil : afterFunctionByte 0x05 = some (.rxTail, 2) := by decide
theorem test_fcWriteSingleHoldingRegister : afterFunctionByte 0x06 = some (.rxTail, 2) := by decide
theorem test_fcWriteMultipleCoils : afterFunctionByte 0x0F = some (.rxLen, 1) := by decide
theorem test_fcWriteMultipleHoldingRegisters : afterFunctionByte 0x10 = some (.rxLen, 1) := by decide
/-- V-FRM-15: 0x90 is not variable. -/
theorem test_fcOther : afterFunctionByte 0x90 = some (.rxTail, 2) := by decide

/-! ## The steps that no word encodes -/

/-- 41_rtu_receive.md R112, worked example. -/
theorem test_first_byte : holdsAfter (step (receiving .rxPrefix [] 6 [.byte 0x11]))
    (fun t => t.byteAt 0 == some 0x11 && t.crc == 0x4C7F && t.idx == 1 && t.rem == 5 && t.stage == .rxPrefix) = true := by
  decide
/-- 41_rtu_receive.md R113, worked example: the length byte 0x04. -/
theorem test_length_byte : holdsAfter (step (receiving .rxLen [0x11, 0x10, 0, 1, 0, 2] 1 [.byte 4]))
    (fun t => t.rem == 6 && t.stage == .rxTail && t.idx == 7) = true := by decide
/-- V-FRM-10: the length byte 0xF8 fails, with `CRC` = 0xBDFA and `IDX` = 7. -/
theorem test_length_byte_too_large :
    holdsAfter (step (receiving .rxLen [0x11, 0x0F, 0, 0, 7, 0xC0] 1 [.byte 0xF8, .byte 0]))
      (fun t => t.status == .failCap && t.crc == 0xBDFA && t.idx == 7 && t.done && t.env.rxLine == [.byte 0]) = true := by
  decide +kernel
/-- V-FRM-14: a failure in the tail. -/
theorem test_read_failure : holdsAfter (step (receiving .rxTail [0x11, 1, 0, 0, 0, 8, 0x3F] 1 [.fail]))
    (fun t => t.status == .failRead && t.crc == 0x005C && t.idx == 7 && t.rem == 1 && t.done) = true := by decide +kernel
/-- 41_rtu_receive.md R116, worked example, with `ct` = 1042 of V-FRM-1. -/
theorem test_checks_pass :
    holdsAfter (step
      { receiving .rxCheck [0x11, 1, 0, 0, 0, 8, 0x3F, 0x5C] 0 [] with env := { Env.quiet with charTime := 1042 } })
      (fun t => t.stage == .rxSilence && t.sil == 3751 && t.crc == 0) = true := by decide +kernel
/-- V-FRM-8: corrupt and foreign. -/
theorem test_crc_is_checked_first :
    holdsAfter (step (receiving .rxCheck [0x12, 1, 0, 0, 0, 8, 0x3F, 0xEF] 0 []))
      (fun t => t.status == .failCrc && t.crc == 0xA001 && t.rxlen == 0) = true := by decide +kernel
/-- 41_rtu_receive.md R118: the last tick. -/
theorem test_last_tick :
    holdsAfter (step { receiving .rxSilence [0x11, 1, 0, 0, 0, 8, 0x3F, 0x5C] 0 [] with
        sil := 1, env := { Env.quiet with ticks := 2 } })
      (fun t => t.status == .ok && t.rxlen == 6 && t.stage == .idle && t.done && t.env.ticks == 1) = true := by decide
/-- 42_rtu_transmit.md R142, worked example: the append. -/
theorem test_append : holdsAfter (step (transmitting .txCrc [0x11, 1, 1, 0] 4 []))
    (fun t => t.buf == bufferOf [0x11, 1, 1, 0, 0x55, 0x48] && t.crc == 0x4855 && t.idx == 0 && t.stage == .txSend) =
    true := by decide +kernel
/-- 42_rtu_transmit.md R142, corner case `TXLEN` = 254. -/
theorem test_append_at_the_end :
    holdsAfter (step { transmitting .txCrc [] 254 [] with txlen := 254, crc := 0x5763 })
      (fun t => t.buf == [(254, 0x63), (255, 0x57)]) = true := by decide
/-- 42_rtu_transmit.md R143, worked example: the last byte of `11 01 01 00 55 48`. -/
theorem test_last_byte_sent : holdsAfter (step (transmitting .txSend [0x11, 1, 1, 0] 5 [.accept]))
    (fun t => t.env.txStream == [0x48] && t.status == .ok && t.idx == 6 && t.done) = true := by decide +kernel
/-- V-TX-6: the write is cut short after five bytes. -/
theorem test_write_failure : holdsAfter (step (transmitting .txSend [0x11, 5, 0, 3, 0xFF, 0] 5 [.fail]))
    (fun t => t.status == .failWrite && t.idx == 5 && t.crc == 0xAA7E && t.env.txStream == []) = true := by decide +kernel
/-- 43_host_access.md R163: a command while an operation runs. -/
theorem test_busy_refuses : refusedWith (exec (.crcInit 0 0) (receiving .rxPrefix [] 6 [])) .hostNotOwner = true := by
  decide

/-! ## The functions: V-CRC-1 to V-CRC-8, and the table of 41_rtu_receive.md R120 on V-FRM-1 to V-FRM-15 -/

theorem test_crc16_short :
    [crc16 [], crc16 [0], crc16 [0xFF], crc16 [1], crc16 [0xFF, 0xFF], crc16 [0, 0, 1, 0xB0]] =
      [0xFFFF, 0x40BF, 0x00FF, 0x807E, 0, 0] := by decide +kernel
theorem test_crc16_check_value : crc16 [0x31, 0x32, 0x33, 0x34, 0x35, 0x36, 0x37, 0x38, 0x39] = 0x4B37 := by decide +kernel
theorem test_silence : [2, 9, 10, 104, 1146].map (fun n => (silenceUs (BitVec.ofNat 16 n)).toNat) = [7, 32, 36, 374, 4125] := by
  decide
theorem test_recvOutcome_ok :
    recvOutcome 0x11 [0x11, 1, 0, 0, 0, 8, 0x3F, 0x5C] = ⟨.ok, 8, 6, true⟩ ∧
    recvOutcome 0x11 [0x11, 0x10, 0, 0, 0, 0, 0, 0x18, 0x91] = ⟨.ok, 9, 7, true⟩ ∧
    recvOutcome 0x11 [0x11, 0x90, 0, 0, 0, 0, 0xC3, 0x47] = ⟨.ok, 8, 6, true⟩ := by decide +kernel
theorem test_recvOutcome_failures :
    recvOutcome 0x11 [0x12, 1, 0, 0, 0, 8, 0x3F, 0x6F] = ⟨.failAddr, 8, 0, false⟩ ∧
    recvOutcome 0x11 [0x11, 1, 0, 1, 0, 8, 0x3F, 0x5C] = ⟨.failCrc, 8, 0, false⟩ ∧
    recvOutcome 0x11 [0x11, 0x0F, 0, 0, 7, 0xC0, 0xF8, 0, 0] = ⟨.failCap, 7, 0, false⟩ ∧
    recvOutcome 0x11 [0x11, 5, 0] = ⟨.failRead, 3, 0, false⟩ ∧
    recvOutcome 0x11 [0x11, 0x10, 0, 1, 0, 2] = ⟨.failRead, 6, 0, false⟩ ∧
    recvOutcome 0x11 [0x11, 1, 0, 0, 0, 8, 0x3F] = ⟨.failRead, 7, 0, false⟩ := by decide +kernel

/-! ## The documented host: the words of programs P1 and P2 and of S2, and the ends of a cycle -/

/-- A completed receive of the frame `l`. -/
def received (l : List Byte) : State := { State.reset with status := .ok, buf := bufferOf l }

/-- A host with the default hooks and zero unused bits, whose `transceive` returns whether the transmit ended
in `OK`, and which rejects an open count with illegal data value, one of the policies R181 (b) names. -/
def plainHost : HostPolicy Unit :=
  { hooks := defaultHooks Unit, pad := 0, afterTransmit := id
    beyond := fun fc _ _ d => (exceptionReply fc .illegalDataValue, d), afterNothing := false }

/-- The words a handler's answer is presented as. -/
def wordsOf (r : Reply × Unit) : Option (List CmdWord) :=
  match r.1 with
  | .send writes len => some (replyWords 0x11 writes len)
  | .nothing => none

theorem test_host_P1 : wordsOf (handle plainHost 0x01 0 8 ()) = some [0xA0201, 0xA0300, 0x80411] := by decide
theorem test_host_P2 : wordsOf (handle plainHost 0x10 1 2 ()) = some [0xA0190, 0xA0201, 0x80311] := by decide
theorem test_host_S2 : wordsOf (handle plainHost 0x05 3 (argument 0xFF 0) ()) = some [0x80611] := by decide
/-- 44_host_protocol_engine.md R172, R175, R181 (b): the first open counts go to the policy, here R179 with
the code 0x03. -/
theorem test_host_open_counts :
    wordsOf (handle plainHost 0x01 0 2001 ()) = some [0xA0181, 0xA0203, 0x80311] ∧
    wordsOf (handle plainHost 0x04 0 127 ()) = some [0xA0184, 0xA0203, 0x80311] := by decide
/-- P1, row 4: `BUF_RD 1`, the answer on `buf_rdata`. -/
theorem test_host_reads_over_the_channel :
    (match hostRead 1 [1] (received [0x11, 1, 0, 0, 0, 8, 0x3F, 0x5C]) with
      | .ok (bytes, t) => bytes == [1] && t.bufRdata == 1
      | .error _ => false) = true := by decide
/-- 44_host_protocol_engine.md R170: `false` without data, even where `STATUS` is `OK` from an earlier `XMIT`. -/
theorem test_host_without_data :
    (transceive 9 plainHost 0x11 { received [0x11, 1, 0, 0, 0, 8] with env := { Env.quiet with avail := false } } ()).1 =
      .returned false := by decide
/-- 44_host_protocol_engine.md R170: `false` after a framing failure, here a read that fails at once. -/
theorem test_host_framing_failure :
    (transceive 2 plainHost 0x11 { State.reset with env := { Env.quiet with avail := true, rxLine := [.fail] } } ()).1 =
      .returned false := by decide

/-! ## Witnesses: the encoding -/

theorem witness_DecodingAnEncodedInstructionGivesItBack :
    (Instr.xmit 0x1FF 0xFF).wf = true ∧ (Instr.fcOther 0x0E).wf = true := by decide
theorem witness_FrameShapeIsChosenByTheFunctionCode :
    isVar 0x0F = true ∧ isVar 0x10 = true ∧ isVar 0x0E = false ∧ isVar 0x11 = false := by decide
theorem witness_StepRunsTheDecodedCommand :
    (idleWith [0x40031, 0]).Undisturbed ∧ (idleWith [0x40031, 0]).stage = .idle ∧
    (idleWith [0x40031, 0]).env.hostCmds = 0x40031 :: [0] := by decide
/-- A prefix with one byte to come, the function byte 0x10. -/
def prefixAlmostIn : State := receiving .rxPrefix [0x11, 0x10, 0, 0, 0] 1 [.byte 2, .fail]
theorem witness_StepRunsTheFunctionByte :
    prefixAlmostIn.Undisturbed ∧ prefixAlmostIn.stage = .rxPrefix ∧ prefixAlmostIn.rem = 1 ∧
    prefixAlmostIn.env.rxLine = .byte 2 :: [.fail] ∧ (takeByte 2 prefixAlmostIn).byteAt 1 = some 0x10 := by decide
theorem witness_FetchWordIsRunByTheNextStep :
    0xFFFFF < 0x100000 ∧ 0xFF < 0x100 ∧ decodeTableWord 24 0xFFFFF = some (.reserved7 0x1FF 0xFF) ∧
    decodeTableWord 8 0xFF = some (.fcOther 0xFF) := by decide

/-! ## Witnesses: the CRC engine -/

theorem witness_CrcBitShiftsRightAndFoldsThePolynomial :
    (0xFFFF : Half).getLsbD 0 = true ∧ (0xFFFE : Half).getLsbD 0 = false ∧ 14 < 15 := by decide
theorem witness_CrcTableFormEqualsTheBitForm : hi8 (crcTable 0xFF) = hi8 (crcTable 0xFF) := rfl
theorem witness_SingleBitFlipFailsTheCrcCheck :
    [0xFF, 0xFF].length = ([0xFE, 0xFF] : List Byte).length ∧ 7 < 8 ∧
    crc16 ([0xFF] ++ [0xFF] ++ []) = 0 ∧ crc16 ([] ++ [0xFF] ++ [0xFF]) = 0 := by decide +kernel
theorem witness_ZeroByteChangesEveryNonzeroCrc : (0xC001 : Half) ≠ 0 := by decide

/-! ## Witnesses: the commands -/

theorem witness_NopChangesNothing : State.reset.stage = .idle := rfl
theorem witness_CrcInitLoadsTheSeed : State.reset.stage = .idle := rfl
theorem witness_CrcUpdateFoldsOneByte : State.reset.stage = .idle := rfl
theorem witness_RecvStartsAReceive : State.reset.stage = .idle := rfl
theorem witness_XmitStartsATransmitOrFailsOnCapacity :
    State.reset.stage = .idle ∧ (254 : Len).toNat ≤ 254 ∧ 254 < (255 : Len).toNat := by decide
theorem witness_BufWrWritesOneByte :
    State.reset.stage = .idle ∧ holdsAfter (exec (.bufWr 255 0xAA) State.reset) (fun _ => true) = true := by decide
theorem witness_BufRdReadsOneByte :
    (received [0x11]).stage = .idle ∧ (received [0x11]).byteAt (0 : Byte).toNat = some 0x11 ∧
    (received [0x11]).byteAt (255 : Byte).toNat = none := by decide
theorem witness_ReservedWordsChangeNothing : State.reset.stage = .idle := rfl
theorem witness_CommandsAreRefusedWhileBusy : prefixAlmostIn.stage ≠ .idle := by decide
theorem witness_CommandsThatStoreNothingKeepTheBuffer :
    ([0x00000, 0x20000, 0x40000, 0x60011, 0x80411, 0xC0000, 0xE0000] : List CmdWord).all (fun cw =>
      holdsAfter (exec (decode (.command cw)) (received [0x11])) (fun _ => true) && cmdOp cw != 5) = true ∧
    ([0x00000, 0x20000, 0x40000, 0x60011, 0x80411, 0xC0000, 0xE0000] : List CmdWord).map cmdOp =
      [0, 1, 2, 3, 4, 6, 7] := by decide

/-! ## Witnesses: the function bytes -/

/-- The end of the prefix stage is due. -/
def prefixIn : State := receiving .rxPrefix [0x11, 0x10, 0, 0, 0, 2] 0 []
theorem witness_FunctionBytesChooseTheNextRead :
    prefixIn.stage = .rxPrefix ∧ prefixIn.rem = 0 ∧ (Instr.fcOther 0x90).wf = true := by decide
theorem witness_FunctionBytesActOnlyAtTheEndOfAPrefix :
    holdsAfter (exec (decode (.function 0x10)) prefixIn) (fun _ => true) = true ∧
    State.reset.stage ≠ .rxPrefix ∧ (prefixAlmostIn.stage = .rxPrefix ∧ prefixAlmostIn.rem ≠ 0) := by decide

/-! ## Witnesses: receive -/

/-- Reading the tail of a fixed frame. -/
def inTail (rem : Len) (line : List RxAnswer) : State :=
  receiving .rxTail (if rem = 1 then [0x11, 1, 0, 0, 0, 8, 0x3F] else [0x11, 1, 0, 0, 0, 8]) rem line
/-- Reading the length byte of a variable frame. -/
def inLen (line : List RxAnswer) : State := receiving .rxLen [0x11, 0x10, 0, 1, 0, 2] 1 line

theorem witness_DeliveredByteIsStoredAndFolded :
    (inTail 2 [.byte 0x3F, .fail]).Undisturbed ∧ (inTail 2 [.byte 0x3F, .fail]).stage.isRead = true ∧
    1 < (inTail 2 [.byte 0x3F, .fail]).rem.toNat ∧
    (inTail 2 [.byte 0x3F, .fail]).env.rxLine = .byte 0x3F :: [.fail] ∧
    (receiving .rxPrefix [] 6 [.byte 0]).stage.isRead = true ∧ 1 < (receiving .rxPrefix [] 6 [.byte 0]).rem.toNat := by
  decide
theorem witness_LastByteEndsTheReadStage_prefix :
    prefixAlmostIn.Undisturbed ∧ prefixAlmostIn.rem = 1 ∧ prefixAlmostIn.env.rxLine = .byte 2 :: [.fail] ∧
    prefixAlmostIn.stage = .rxPrefix ∧
    (takeByte 2 { prefixAlmostIn with
      done := false, env := { prefixAlmostIn.env with rxLine := [.fail] } }).byteAt 1 = some 0x10 ∧
    isVar 0x10 = true ∧
    (takeByte 2 (receiving .rxPrefix [0x11, 0x11, 0, 0, 0] 1 [])).byteAt 1 = some 0x11 ∧ isVar 0x11 = false := by
  decide
theorem witness_LastByteEndsTheReadStage_length :
    (inLen [.byte 247]).Undisturbed ∧ (inLen [.byte 247]).rem = 1 ∧ (inLen [.byte 247]).env.rxLine = .byte 247 :: [] ∧
    (inLen [.byte 247]).stage = .rxLen ∧ 9 + (247 : Byte).toNat ≤ 256 ∧ 9 + (248 : Byte).toNat > 256 := by decide
theorem witness_LastByteEndsTheReadStage_tail :
    (inTail 1 [.byte 0x5C]).Undisturbed ∧ (inTail 1 [.byte 0x5C]).rem = 1 ∧
    (inTail 1 [.byte 0x5C]).env.rxLine = .byte 0x5C :: [] ∧ (inTail 1 [.byte 0x5C]).stage = .rxTail := by decide
theorem witness_ReadFailureEndsTheReceive :
    (inLen [.fail]).Undisturbed ∧ (inLen [.fail]).stage.isRead = true ∧ 0 < (inLen [.fail]).rem.toNat ∧
    (inLen [.fail]).env.rxLine = .fail :: [] := by decide

/-- A whole frame in, the checks pending, with the character time `ct`. -/
def checking (l : List Byte) (ct : Half) : State :=
  { receiving .rxCheck l 0 [] with env := { Env.quiet with charTime := ct } }
/-- The frame of V-FRM-1. -/
def readCoilsFrame : List Byte := [0x11, 1, 0, 0, 0, 8, 0x3F, 0x5C]

theorem witness_ChecksRunInOrder :
    (checking readCoilsFrame 1).Undisturbed ∧ (checking readCoilsFrame 1).stage = .rxCheck ∧
    (checking readCoilsFrame 1).byteAt 0 = some 0x11 ∧ (checking readCoilsFrame 1).crc = 0 ∧
    0x11 = (checking readCoilsFrame 1).sid ∧ silenceUs 1 ≠ 0 ∧ silenceUs 0 = 0 ∧
    (checking [0x12, 1, 0, 0, 0, 8, 0x3F, 0x6F] 1).crc = 0 ∧
    (checking [0x12, 1, 0, 0, 0, 8, 0x3F, 0x6F] 1).byteAt 0 = some 0x12 ∧
    0x12 ≠ (checking [0x12, 1, 0, 0, 0, 8, 0x3F, 0x6F] 1).sid ∧
    (checking [0x11, 1, 0, 1, 0, 8, 0x3F, 0x5C] 1).crc ≠ 0 := by decide +kernel
/-- Waiting out the silence interval. -/
def inSilence (sil : Micros) (ticks : Nat) : State :=
  { receiving .rxSilence readCoilsFrame 0 [] with sil := sil, env := { Env.quiet with ticks := ticks } }
theorem witness_TicksCountTheSilence :
    (inSilence 2 1).Undisturbed ∧ (inSilence 2 1).stage = .rxSilence ∧ (inSilence 2 1).env.ticks = 0 + 1 ∧
    (inSilence 2 1).sil ≠ 1 ∧ (inSilence 1 1).sil = 1 ∧ State.reset.stage ≠ .rxSilence := by decide

/-- Waiting out the silence interval, with `signals` coming before the tick. -/
def silenceSignalled (signals : List Signal) : State :=
  { inSilence 2 1 with env := { Env.quiet with ticks := 1, signals := signals } }
theorem witness_TicksCountTheSilence_signals :
    (silenceSignalled [.charTime 1042]).env.signals = .charTime 1042 :: [] ∧
    (silenceSignalled [.avail true]).env.signals = .avail true :: [] ∧
    (silenceSignalled [.quiet, .reset]).env.signals = .quiet :: [.reset] ∧
    holdsAfter (step (silenceSignalled [])) (·.sil == 1) = true := by decide +kernel
/-- 93_implementation_defined.md U5: a change of `ct` during the wait has no effect on `SIL`. -/
theorem test_char_time_is_sampled_once :
    holdsAfter (step (silenceSignalled [.charTime 1042])) (fun t => t.sil == 2 && t.stage == .rxSilence) = true := by
  decide +kernel

/-! ## Witnesses: transmit -/

theorem witness_CrcStageFoldsThenAppends :
    (transmitting .txCrc [0x11, 1] 1 []).Undisturbed ∧ (transmitting .txCrc [0x11, 1] 1 []).stage = .txCrc ∧
    (transmitting .txCrc [0x11, 1] 1 []).idx.toNat < (transmitting .txCrc [0x11, 1] 1 []).txlen.toNat ∧
    (transmitting .txCrc [0x11, 1] 1 []).byteAt (lowIndex 1).toNat = some 1 ∧
    ({ transmitting .txCrc [0x11, 1] 1 [] with buf := [] } : State).byteAt (lowIndex 1).toNat = none ∧
    (254 : Len).toNat ≤ (254 : Len).toNat ∧ (254 : Len).toNat ≤ 254 := by decide
theorem witness_AcceptedByteGoesOntoTheStream :
    (transmitting .txSend [0x11] 2 [.accept]).Undisturbed ∧ (transmitting .txSend [0x11] 2 [.accept]).stage = .txSend ∧
    (transmitting .txSend [0x11] 2 [.accept]).env.txLine = .accept :: [] ∧
    (transmitting .txSend [0x11] 2 [.accept]).byteAt (lowIndex 2).toNat = some 0x4C ∧
    ((2 : Len) + 1).toNat = (transmitting .txSend [0x11] 2 [.accept]).txlen.toNat + 2 ∧
    ((1 : Len) + 1).toNat ≠ (transmitting .txSend [0x11] 1 [.accept]).txlen.toNat + 2 ∧
    ({ transmitting .txSend [0x11] 0 [.accept] with buf := [(1, 0x7F), (2, 0x4C)] } : State).byteAt (lowIndex 0).toNat =
      none := by decide +kernel
theorem witness_WriteFailureEndsTheTransmit :
    (transmitting .txSend [0x11] 2 [.fail]).Undisturbed ∧ (transmitting .txSend [0x11] 2 [.fail]).stage = .txSend ∧
    (transmitting .txSend [0x11] 2 [.fail]).env.txLine = .fail :: [] := by decide

/-! ## Witnesses: completion, waiting, reset -/

theorem witness_SuccessWritesStatusAndTheReceivedLength :
    (inSilence 1 1).stage = .rxSilence ∧ (checking readCoilsFrame 0).stage = .rxCheck ∧
    (transmitting .txSend [0x11] 2 []).stage ≠ .rxCheck ∧ (transmitting .txSend [0x11] 2 []).stage ≠ .rxSilence := by
  decide
theorem witness_WaitingStagesHaveNoTimeout :
    (State.reset.Undisturbed ∧ State.reset.stage = .idle ∧ State.reset.env.hostCmds = []) ∧
    ((inLen []).Undisturbed ∧ (inLen []).stage.isRead = true ∧ 0 < (inLen []).rem.toNat ∧ (inLen []).env.rxLine = []) ∧
    ((transmitting .txSend [0x11] 2 []).Undisturbed ∧ (transmitting .txSend [0x11] 2 []).stage = .txSend ∧
      (transmitting .txSend [0x11] 2 []).env.txLine = []) ∧
    ((inSilence 1 0).Undisturbed ∧ (inSilence 1 0).stage = .rxSilence ∧ (inSilence 1 0).env.ticks = 0) := by decide
/-- A receive that a reset is about to abandon. -/
def resetPending : State :=
  { receiving .rxTail [0x11, 1, 0, 0, 0, 8] 2 [] with
    status := .none, env := { Env.quiet with signals := [.reset, .quiet] } }
theorem witness_ResetEventGivesTheResetValues :
    resetPending.env.signals = .reset :: [.quiet] ∧
    holdsAfter (step resetPending) (fun t => t.stage == .idle && !t.done && t.buf == []) = true := by decide

/-! ## Witnesses: the invariant, in every stage -/

theorem witness_Inv_idle : (received readCoilsFrame).Inv := by constructor <;> decide
theorem witness_Inv_rxPrefix : prefixAlmostIn.Inv := by constructor <;> decide +kernel
theorem witness_Inv_rxLen : (inLen [.byte 247]).Inv := by constructor <;> decide +kernel
theorem witness_Inv_rxTail_fixed : (inTail 1 [.byte 0x5C]).Inv := by constructor <;> decide +kernel
theorem witness_Inv_rxTail_variable :
    (receiving .rxTail [0x11, 0x10, 0, 0, 0, 0, 247] 249 [.byte 0]).Inv := by constructor <;> decide +kernel
theorem witness_Inv_rxCheck : (checking readCoilsFrame 1).Inv := by constructor <;> decide +kernel
theorem witness_Inv_rxSilence : (inSilence 1 1).Inv := by constructor <;> decide +kernel
theorem witness_Inv_txCrc : (transmitting .txCrc [0x11, 1] 1 []).Inv := by constructor <;> decide
theorem witness_Inv_txSend : (transmitting .txSend [0x11] 2 [.accept]).Inv := by constructor <;> decide

/-- The states of the witnesses above, one for each stage, whose next step is a transition of the tables. -/
def everyStage : List State :=
  [idleWith [0x60011], prefixAlmostIn, inLen [.byte 247], inTail 1 [.byte 0x5C],
   checking readCoilsFrame 1, inSilence 1 1, transmitting .txCrc [0x11, 1] 1 [], transmitting .txSend [0x11] 2 [.accept]]

theorem witness_EveryStepKeepsTheInvariant :
    everyStage.all (fun s => holdsAfter (step s) (fun _ => true)) = true ∧
    (inSilence 1 1).Inv ∧ (checking readCoilsFrame 1).Inv := by
  exact ⟨by decide, witness_Inv_rxSilence, witness_Inv_rxCheck⟩
theorem witness_NoStepStopsUnderTheInvariant : (transmitting .txSend [0x11] 2 [.accept]).Inv := witness_Inv_txSend
theorem witness_StepsFollowTheStageTables :
    (checking readCoilsFrame 1).Inv ∧ everyStage.all (fun s => s.env.signals == [] &&
      holdsAfter (step s) (fun t => t.stage != s.stage || s.stage == .txCrc)) = true := by
  exact ⟨witness_Inv_rxCheck, by decide +kernel⟩
theorem witness_OnlyRecvAndXmitLeaveIdle :
    (idleWith [0x60011]).stage = .idle ∧ holdsAfter (step (idleWith [0x60011])) (·.stage == .rxPrefix) = true ∧
    holdsAfter (step (idleWith [0x8FE11])) (·.stage == .txCrc) = true ∧
    holdsAfter (step (idleWith [0x8FF11])) (·.stage == .idle) = true := by decide
theorem witness_OperationsEndOnlyInTheirOwnStatuses :
    (inSilence 1 1).Inv ∧ (inSilence 1 1).Undisturbed ∧ (inSilence 1 1).stage.isReceive = true ∧
    holdsAfter (step (inSilence 1 1)) (·.stage == .idle) = true ∧
    (transmitting .txSend [0x11] 2 [.accept]).Inv ∧ (transmitting .txSend [0x11] 2 [.accept]).stage.isTransmit = true ∧
    holdsAfter (step (transmitting .txSend [0x11] 2 [.accept])) (·.stage == .idle) = true :=
  ⟨witness_Inv_rxSilence, by decide, by decide, by decide, witness_Inv_txSend, by decide, by decide⟩
theorem witness_StatusChangesOnlyAtAcceptanceAndCompletion :
    holdsAfter (step (idleWith [0x8FF11])) (·.status != .none) = true ∧
    holdsAfter (step (inSilence 1 1)) (·.status != .none) = true ∧
    holdsAfter (step { resetPending with stage := .idle, status := .ok }) (·.status != .ok) = true := by decide
theorem witness_BufferIsWrittenOnlyByItsThreeWriters :
    prefixAlmostIn.Inv ∧
    holdsAfter (step (idleWith [0xAFFAA])) (·.byteAt 255 != none) = true ∧
    holdsAfter (step prefixAlmostIn) (·.byteAt 5 != none) = true ∧
    holdsAfter (step (transmitting .txCrc [0x11] 1 [])) (fun t => t.byteAt 1 != none && t.byteAt 2 != none) = true ∧
    holdsAfter (step resetPending) (·.byteAt 0 != some 0x11) = true :=
  ⟨witness_Inv_rxPrefix, by decide, by decide, by decide, by decide⟩
theorem witness_NothingIsTransmittedOutsideSend :
    holdsAfter (step (transmitting .txSend [0x11] 2 [.accept])) (·.env.txStream == [0x4C]) = true ∧
    holdsAfter (step prefixAlmostIn) (·.env.txStream == []) = true := by decide +kernel

/-! ## Witnesses: reachable states, one for each clause of 10_state.md R29 -/

theorem reachable_steps (n : Nat) (s t : State) (h : Reachable s) (hs : steps n s = .next t) : Reachable t := by
  induction n generalizing s with
  | zero => cases hs; exact h
  | succ n ih =>
    unfold steps at hs
    split at hs
    · exact ih _ (.step _ _ h (by assumption)) hs
    · cases hs
    · cases hs

/-- What the agents outside offer to a block just reset. -/
def offered (cw : CmdWord) (line : List RxAnswer) : Env := { Env.quiet with hostCmds := [cw], rxLine := line }

theorem witness_Reachable_rxPrefix : ∃ t, Reachable t ∧ t.stage = .rxPrefix :=
  ⟨_, reachable_steps 1 _ _ (.outside _ (offered 0x60011 []) .reset) rfl, rfl⟩
theorem witness_Reachable_rxLen : ∃ t, Reachable t ∧ t.stage = .rxLen :=
  ⟨_, reachable_steps 7 _ _
    (.outside _ (offered 0x60011 ([0x11, 0x10, 0, 0, 0, 0].map .byte)) .reset) rfl, rfl⟩
theorem witness_Reachable_rxTail_fixed : ∃ t, Reachable t ∧ t.stage = .rxTail ∧ t.byteAt 1 = some 1 ∧ isVar 1 = false :=
  ⟨_, reachable_steps 7 _ _
    (.outside _ (offered 0x60011 ([0x11, 1, 0, 0, 0, 8].map .byte)) .reset) rfl, rfl, rfl, by decide⟩
theorem witness_Reachable_rxTail_variable :
    ∃ t, Reachable t ∧ t.stage = .rxTail ∧ t.byteAt 1 = some 0x10 ∧ isVar 0x10 = true :=
  ⟨_, reachable_steps 8 _ _
    (.outside _ (offered 0x60011 ([0x11, 0x10, 0, 0, 0, 0, 247].map .byte)) .reset) rfl, rfl, rfl, by decide⟩
theorem witness_Reachable_txCrc : ∃ t, Reachable t ∧ t.stage = .txCrc :=
  ⟨_, reachable_steps 1 _ _ (.outside _ (offered 0x8FE11 []) .reset) rfl, rfl⟩
theorem witness_Reachable_txSend : ∃ t, Reachable t ∧ t.stage = .txSend :=
  ⟨_, reachable_steps 2 _ _ (.outside _ (offered 0x80011 []) .reset) rfl, rfl⟩
theorem witness_ReachableStatesStayWithinTheBuffer : Reachable State.reset := .reset

/-! ## Witnesses: whole operations, and the pins -/

/-- An idle block about to receive as station 0x11. -/
def aboutToReceive (ct : Half) (ticks : Nat) (line : List RxAnswer) : State :=
  { State.reset with env := { offered 0x60011 line with charTime := ct, ticks := ticks } }

theorem witness_WholeReceiveEndsAsItsTableSays_ok :
    (aboutToReceive 1 3 (readCoilsFrame.map .byte ++ [])).stage = .idle ∧
    (aboutToReceive 1 3 (readCoilsFrame.map .byte ++ [])).Undisturbed ∧
    (aboutToReceive 1 3 (readCoilsFrame.map .byte ++ [])).env.hostCmds = packCommand 3 0 0x11 :: [] ∧
    (recvOutcome 0x11 readCoilsFrame).status ≠ .failRead ∧ (recvOutcome 0x11 readCoilsFrame).waits = true ∧
    (silenceUs 1).toNat ≤ 3 := by decide +kernel
theorem witness_WholeReceiveEndsAsItsTableSays_fail :
    (aboutToReceive 0 0 (([] : List Byte).map .byte ++ [.fail])).stage = .idle ∧
    (aboutToReceive 0 0 (([] : List Byte).map .byte ++ [.fail])).env.hostCmds = packCommand 3 0 0x11 :: [] ∧
    (recvOutcome 0x11 []).status = .failRead ∧ (silenceUs 0).toNat ≤ 0 := by decide

/-- The other rows of the table: the hypotheses for the frames of V-FRM-6, V-FRM-7 and V-FRM-10. -/
theorem witness_WholeReceiveEndsAsItsTableSays_other_rows :
    (recvOutcome 0x11 [0x12, 1, 0, 0, 0, 8, 0x3F, 0x6F]).status = .failAddr ∧
    (recvOutcome 0x11 [0x11, 1, 0, 1, 0, 8, 0x3F, 0x5C]).status = .failCrc ∧
    (recvOutcome 0x11 [0x11, 0x0F, 0, 0, 7, 0xC0, 0xF8]).status = .failCap ∧
    (aboutToReceive 0 0 (([0x11, 0x0F, 0, 0, 7, 0xC0, 0xF8] : List Byte).map .byte ++ [])).stage = .idle ∧
    (aboutToReceive 0 0 (([0x11, 0x0F, 0, 0, 7, 0xC0, 0xF8] : List Byte).map .byte ++ [])).Undisturbed ∧
    (aboutToReceive 0 0 (([0x11, 0x0F, 0, 0, 7, 0xC0, 0xF8] : List Byte).map .byte ++ [])).env.hostCmds =
      packCommand 3 0 0x11 :: [] := by decide +kernel

/-- An idle block about to transmit an envelope of one byte. -/
def aboutToTransmit (line : List TxAnswer) : State :=
  { State.reset with buf := [(0, 0x11)], env := { Env.quiet with hostCmds := [0x80111], txLine := line } }

theorem witness_WholeTransmitSendsTheEnvelopeAndItsCrc :
    (aboutToTransmit [.accept, .fail]).stage = .idle ∧ (aboutToTransmit [.accept, .fail]).Undisturbed ∧
    [0x11].length ≤ 254 ∧ (∀ i, i < 1 → (aboutToTransmit [.accept, .fail]).byteAt i = ([0x11] : List Byte)[i]?) ∧
    (aboutToTransmit [.accept, .fail]).env.hostCmds = packCommand 4 (BitVec.ofNat 9 1) 0x11 :: [] ∧
    (aboutToTransmit [.accept, .fail]).env.txLine = List.replicate 1 .accept ++ [.fail] ∧ 1 < 1 + 2 ∧
    (aboutToTransmit [.accept, .accept, .accept]).env.txLine = List.replicate 3 .accept ++ [] ∧ ¬3 < 1 + 2 := by decide
/-- An idle block about to transmit the envelope of V-FRM-1. -/
def aboutToTransmitSix : State :=
  { State.reset with
    buf := bufferOf [0x11, 1, 0, 0, 0, 8]
    env := { Env.quiet with hostCmds := [0x80611], txLine := List.replicate 8 .accept ++ [.fail] } }
theorem witness_TransmittedFixedFrameIsReceived_sender :
    ([0x11, 1, 0, 0, 0, 8] : List Byte).length = 6 ∧ ([0x11, 1, 0, 0, 0, 8] : List Byte)[0]? = some 0x11 ∧
    (∀ fc : Byte, ([0x11, 1, 0, 0, 0, 8] : List Byte)[1]? = some fc → isVar fc = false) ∧
    aboutToTransmitSix.stage = .idle ∧ aboutToTransmitSix.Undisturbed ∧
    (∀ i, i < 6 → aboutToTransmitSix.byteAt i = ([0x11, 1, 0, 0, 0, 8] : List Byte)[i]?) ∧
    aboutToTransmitSix.env.hostCmds = packCommand 4 6 0x11 :: [] ∧
    aboutToTransmitSix.env.txLine = List.replicate 8 .accept ++ [.fail] ∧ aboutToTransmitSix.env.txStream = [] := by
  refine ⟨rfl, rfl, fun fc h => ?_, by decide, by decide, by decide, by decide, by decide, by decide⟩
  cases h; decide
/-- The receiver's hypotheses, for the stream `11 01 00 00 00 08 3F 5C` of V-FRM-1. -/
theorem witness_TransmittedFixedFrameIsReceived_receiver :
    (aboutToReceive 1 3 (readCoilsFrame.map .byte ++ [.fail])).stage = .idle ∧
    (aboutToReceive 1 3 (readCoilsFrame.map .byte ++ [.fail])).Undisturbed ∧
    (aboutToReceive 1 3 (readCoilsFrame.map .byte ++ [.fail])).env.hostCmds = packCommand 3 0 0x11 :: [] ∧
    (aboutToReceive 1 3 (readCoilsFrame.map .byte ++ [.fail])).env.rxLine = readCoilsFrame.map .byte ++ [.fail] ∧
    (silenceUs 1).toNat ≤ 3 := by decide +kernel
/-- The frame of V-FRM-7: that of V-FRM-1 with bit 0 of byte 3 flipped. -/
def flippedFrame : List Byte := [0x11, 1, 0, 1, 0, 8, 0x3F, 0x5C]
theorem witness_FlippedBitOfAFrameIsRejected :
    0 < 8 ∧ 3 < (recvOutcome 0x11 readCoilsFrame).consumed ∧ (recvOutcome 0x11 readCoilsFrame).status = .ok ∧
    flippedFrame = readCoilsFrame.set 3 (readCoilsFrame.getD 3 0 ^^^ (1 : Byte) <<< 0) ∧
    isVar (flippedFrame.getD 1 0) = isVar (readCoilsFrame.getD 1 0) ∧
    isVar (readCoilsFrame.getD 1 0) = false ∧
    (recvOutcome 0x11 [0x11, 0x10, 0, 0, 0, 0, 0, 0x18, 0x91]).status = .ok ∧ isVar 0x10 = true ∧
    (aboutToReceive 1 3 (flippedFrame.map .byte ++ [])).stage = .idle ∧
    (aboutToReceive 1 3 (flippedFrame.map .byte ++ [])).Undisturbed ∧
    (aboutToReceive 1 3 (flippedFrame.map .byte ++ [])).env.hostCmds = packCommand 3 0 0x11 :: [] ∧
    (aboutToReceive 1 3 (flippedFrame.map .byte ++ [])).env.rxLine = flippedFrame.map .byte ++ [] := by decide +kernel

/-- Pins that offer a word, a byte, an acceptance and both failures in one cycle. -/
def busyPins : PortIn :=
  { rst := false, cmdValid := true, cmdWord := 0x20000, rxValid := true, rxData := 0x11, rxFail := true,
    txReady := true, txFail := true, charTimeUs := 1042, tickUs := true }

theorem witness_FailureHasPriorityAtThePins :
    busyPins.rst = false ∧ busyPins.rxFail = true ∧ busyPins.txFail = true ∧
    prefixAlmostIn.stage.isRead = true ∧ 0 < prefixAlmostIn.rem.toNat ∧
    (transmitting .txSend [0x11] 2 []).stage = .txSend := by decide
theorem witness_CommandIsTakenOnlyInAReadyCycle :
    busyPins.rst = false ∧ State.reset.stage = .idle ∧ busyPins.cmdValid = true ∧
    ({ busyPins with cmdValid := false } : PortIn).cmdValid = false ∧ prefixAlmostIn.stage ≠ .idle ∧
    holdsAfter (cycle busyPins prefixAlmostIn) (fun _ => true) = true ∧
    holdsAfter (cycle { busyPins with cmdValid := false, cmdWord := 0 } prefixAlmostIn) (fun _ => true) = true := by
  decide

end Sys2Proof.Tests
end

section
/-! SUPPORT. What a step, a stage and a command can answer (10_state.md R21, R23; 41_rtu_receive.md R111,
R113; 42_rtu_transmit.md R141): if one of them answers the next state `t`, then `t` is one of these. -/

namespace Sys2Proof.Machine

/-- A step is the move of the agent whose turn it is, the reset event, or a change of a level outside. -/
theorem step_next {s t : State} (h : step s = .next t) :
    (∃ sig, agentStep (s.clearDone.withSignals sig) = .next t) ∨
    (∃ rest, s.env.signals = .reset :: rest ∧ t = resetEvent (s.clearDone.withSignals rest)) ∨
    (∃ e, t = { s.clearDone with env := e }) := by
  rcases step_cases s with ⟨-, hs⟩ | ⟨rest, -, hs⟩ | ⟨rest, hr, hs⟩ | ⟨ct, rest, -, hs⟩ | ⟨level, rest, -, hs⟩ <;>
    rw [hs] at h
  · exact .inl ⟨s.env.signals, h⟩
  · exact .inl ⟨rest, h⟩
  · cases h; exact .inr (.inl ⟨rest, hr, rfl⟩)
  · cases h; exact .inr (.inr ⟨_, rfl⟩)
  · cases h; exact .inr (.inr ⟨_, rfl⟩)

/-- A read of the buffer changes at most the count of drawn values. -/
theorem readByte_state (s : State) (i : Byte) : ∃ n, (s.readByte i).2 = { s with draws := n } := by
  cases hb : s.byteAt i.toNat with
  | some b => exact ⟨s.draws, by rw [readByte_listed s i b hb]⟩
  | none => exact ⟨s.draws + 1, by rw [readByte_unlisted s i hb]⟩

/-! ## Commands (43_host_access.md, 40_crc_engine.md section 4, R110, R140) -/

/-- The state in which `RECV d` leaves an idle block (41_rtu_receive.md R110). -/
def recvStarted (d : Byte) (s : State) : State :=
  { s with sid := d, crc := Config.crcSeed, idx := 0, rem := 6, status := .none, rxlen := 0, stage := .rxPrefix }

/-- The state in which an accepted `XMIT a, d` leaves an idle block (42_rtu_transmit.md R140). -/
def xmitStarted (a : Len) (d : Byte) (s : State) : State :=
  { s with sid := d, txlen := a, status := .none, crc := Config.crcSeed, idx := 0, stage := .txCrc }

theorem execRecv_idle (a : Len) (d : Byte) {s : State} (h : s.stage = .idle) :
    execRecv a d s = .next (recvStarted d s) := whenIdle_idle s _ h

theorem execXmit_fits (a : Len) (d : Byte) {s : State} (h : s.stage = .idle) (ha : a.toNat ≤ 254) :
    execXmit a d s = .next (xmitStarted a d s) := by
  unfold execXmit
  rw [whenIdle_idle s _ h, if_neg (by simp; omega)]
  rfl

theorem execXmit_tooLong (a : Len) (d : Byte) {s : State} (h : s.stage = .idle) (ha : 254 < a.toNat) :
    execXmit a d s = .next ({ s with sid := d, txlen := a, status := .none }.fail .failCap) := by
  unfold execXmit
  rw [whenIdle_idle s _ h, if_pos (by simp; omega)]

/-- A command taken in `IDLE` writes `CRC`, the output register and the draw counter at most, or one byte of
the buffer, or starts a receive, or starts a transmit, or fails it for its length. -/
theorem execCommand_next {s t : State} {cw : CmdWord} (hs : s.stage = .idle)
    (h : exec (decodeCommand cw) s = .next t) :
    (∃ c r n, t = { s with crc := c, bufRdata := r, draws := n }) ∨
    (cmdOp cw = 5 ∧ t = s.writeByte (cmdIndex cw) (cmdD cw)) ∨
    (cmdOp cw = 3 ∧ t = recvStarted (cmdD cw) s) ∨
    (cmdOp cw = 4 ∧ (cmdA cw).toNat ≤ 254 ∧ t = xmitStarted (cmdA cw) (cmdD cw) s) ∨
    (cmdOp cw = 4 ∧ t = { s with sid := cmdD cw, txlen := cmdA cw, status := .none }.fail .failCap) := by
  have kept : ∀ u : State, whenIdle s (.next u) = .next t → t = u := fun u hu => by
    cases (whenIdle_next s t _ hu).2; rfl
  unfold decodeCommand at h
  split at h
  case isTrue => -- `NOP`
    exact .inl ⟨s.crc, s.bufRdata, s.draws, kept _ h⟩
  split at h
  case isTrue => -- `CRC_INIT`
    exact .inl ⟨_, s.bufRdata, s.draws, kept _ h⟩
  split at h
  case isTrue => -- `CRC_UPDATE`
    exact .inl ⟨_, s.bufRdata, s.draws, kept _ h⟩
  split at h
  case isTrue h3 => exact .inr (.inr (.inl ⟨h3, kept _ h⟩))
  split at h
  case isTrue h4 => -- `XMIT`, by its length
    replace h : execXmit (cmdA cw) (cmdD cw) s = .next t := h
    by_cases ha : (cmdA cw).toNat ≤ 254
    · rw [execXmit_fits _ _ hs ha] at h
      cases h
      exact .inr (.inr (.inr (.inl ⟨h4, ha, rfl⟩)))
    · rw [execXmit_tooLong _ _ hs (by omega)] at h
      cases h
      exact .inr (.inr (.inr (.inr ⟨h4, rfl⟩)))
  split at h
  case isTrue h5 =>
    split at h
    · exact .inl ⟨s.crc, s.bufRdata, s.draws, kept _ h⟩
    · exact .inr (.inl ⟨h5, kept _ h⟩)
  split at h
  case isTrue =>
    split at h
    · exact .inl ⟨s.crc, s.bufRdata, s.draws, kept _ h⟩
    · -- `BUF_RD`
      obtain ⟨n, hn⟩ := readByte_state s (cmdIndex cw)
      exact .inl ⟨s.crc, (s.readByte (cmdIndex cw)).1, n, by rw [kept _ h, hn]⟩
  · exact .inl ⟨s.crc, s.bufRdata, s.draws, kept _ h⟩

/-- In `IDLE` the block waits or runs the word that is next. -/
theorem idleStage_next {s t : State} (h : idleStage s = .next t) :
    t = s ∨ ∃ cw rest, s.env.hostCmds = cw :: rest ∧ exec (decodeCommand cw) (s.withHostCmds rest) = .next t := by
  cases hc : s.env.hostCmds with
  | nil => rw [idleStage_wait s hc] at h; cases h; exact .inl rfl
  | cons cw rest => rw [idleStage_cmd s cw rest hc] at h; exact .inr ⟨cw, rest, rfl, h⟩

/-! ## The read stages (41_rtu_receive.md R112 to R114) -/

/-- A read stage that still wants bytes waits, fails, or takes the byte that is next. -/
theorem readStage_next {s t : State} (hr : s.rem ≠ 0) (h : readStage s = .next t) :
    t = s ∨ (∃ rest, t = (s.withRxLine rest).fail .failRead) ∨
    ∃ b rest, s.env.rxLine = .byte b :: rest ∧ rxByte b (s.withRxLine rest) = .next t := by
  rcases hl : s.env.rxLine with _ | ⟨b | _, rest⟩
  · rw [readStage_wait s hr hl] at h; cases h; exact .inl rfl
  · rw [readStage_byte s b rest hr hl] at h; exact .inr (.inr ⟨b, rest, rfl, h⟩)
  · rw [readStage_fail s rest hr hl] at h; cases h; exact .inr (.inl ⟨rest, rfl⟩)

/-- The end of a read stage sets `REM` and `STAGE`, or fails the receive. -/
theorem endOfRead_next {s t : State} (h : endOfRead s = .next t) :
    (∃ n r g, t = { s with draws := n, rem := r, stage := g }) ∨
    (∃ n, t = { s with draws := n }.fail .failCap) := by
  unfold endOfRead at h
  cases hs : s.stage <;> rw [hs] at h
  case rxPrefix =>
    replace h : runFunctionByte s = .next t := h
    rw [runFunctionByte_eq] at h
    obtain ⟨n, hn⟩ := readByte_state s 1
    rw [hn] at h
    unfold endPrefix at h
    split at h
    · split at h <;> cases h <;> exact .inl ⟨n, _, _, rfl⟩
    · cases h
  case rxLen =>
    obtain ⟨n, hn⟩ := readByte_state s (lowIndex (s.idx - 1))
    cases h
    rw [hn]
    unfold endLength
    split
    · exact .inr ⟨n, rfl⟩
    · exact .inl ⟨n, _, _, rfl⟩
  case rxTail => cases h; exact .inl ⟨s.draws, s.rem, .rxCheck, rfl⟩
  all_goals cases h; exact .inl ⟨s.draws, s.rem, s.stage, rfl⟩

/-- A delivered byte is taken, and its stage may end with it. -/
theorem rxByte_next {b : Byte} {s t : State} (h : rxByte b s = .next t) :
    t = takeByte b s ∨ endOfRead (takeByte b s) = .next t := by
  unfold rxByte at h
  split at h
  · exact .inr h
  · cases h; exact .inl rfl

/-! ## The checks and the silence interval (R116 to R118) -/

/-- After the checks the receive has failed, or has succeeded, or waits out the silence. -/
theorem checkFrame_cases (s : State) : ∃ n,
    (∃ k, checkFrame s = { s with draws := n }.fail k) ∨
    checkFrame s = { s with draws := n }.completeOk ∨
    checkFrame s = { s with draws := n, sil := silenceUs s.env.charTime, stage := .rxSilence } := by
  unfold checkFrame
  split
  · exact ⟨s.draws, .inl ⟨_, rfl⟩⟩
  · obtain ⟨n, hn⟩ := readByte_state s 0
    rw [hn]
    refine ⟨n, ?_⟩
    split
    · exact .inl ⟨_, rfl⟩
    · unfold startSilence
      split
      · exact .inr (.inl rfl)
      · exact .inr (.inr rfl)

/-- In `RX_SILENCE` the block waits, counts a tick, or completes at the last one. -/
theorem silenceStage_next {s t : State} (hs : s.stage = .rxSilence) (h : silenceStage s = .next t) :
    t = s ∨ (∃ n, s.sil ≠ 1 ∧ t = { s.withTicks n with sil := s.sil - 1 }) ∨
    (∃ n, t = { s.withTicks n with sil := 0, status := .ok, rxlen := s.idx - 2, stage := .idle, done := true }) := by
  cases hn : s.env.ticks with
  | zero => rw [silenceStage_wait s hn] at h; cases h; exact .inl rfl
  | succ n =>
    rw [silenceStage_tick s n hn] at h
    cases h
    by_cases h1 : s.sil = 1
    · exact .inr (.inr ⟨n, tick_last _ hs h1⟩)
    · exact .inr (.inl ⟨n, h1, tick_counts _ hs h1⟩)

/-! ## The transmit stages (42_rtu_transmit.md R142 to R144) -/

/-- `TX_CRC` folds the next byte or appends the CRC. -/
theorem crcStage_next {s t : State} (h : crcStage s = .next t) :
    (s.idx.toNat < s.txlen.toNat ∧ t = foldByte s) ∨ (s.txlen.toNat ≤ s.idx.toNat ∧ appendCrc s = .next t) := by
  rcases Nat.lt_or_ge s.idx.toNat s.txlen.toNat with hlt | hge
  · rw [crcStage_fold s hlt] at h; cases h; exact .inl ⟨hlt, rfl⟩
  · rw [crcStage_append s hge] at h; exact .inr ⟨hge, h⟩

/-- `TX_SEND` waits, fails, sends a byte, or sends the last one and completes. -/
theorem sendStage_next {s t : State} (h : sendStage s = .next t) :
    t = s ∨ (∃ rest, t = (s.withTxLine rest).fail .failWrite) ∨
    (∃ rest, (s.idx + 1).toNat ≠ s.txlen.toNat + 2 ∧ t = sendByte (s.withTxLine rest)) ∨
    (∃ rest, (s.idx + 1).toNat = s.txlen.toNat + 2 ∧ t = (sendByte (s.withTxLine rest)).completeOk) := by
  rcases hl : s.env.txLine with _ | ⟨_ | _, rest⟩
  · rw [sendStage_wait s hl] at h; cases h; exact .inl rfl
  · rw [sendStage_accept s rest hl] at h
    cases h
    by_cases hlast : (s.idx + 1).toNat = s.txlen.toNat + 2
    · exact .inr (.inr (.inr ⟨rest, hlast, byteAccepted_last _ hlast⟩))
    · exact .inr (.inr (.inl ⟨rest, hlast, byteAccepted_more _ hlast⟩))
  · rw [sendStage_fail s rest hl] at h; cases h; exact .inr (.inl ⟨rest, rfl⟩)

end Sys2Proof.Machine
end

section
/-! SUPPORT. The invariant, stage by stage (10_state.md R29): what keeps each of its clauses. -/

namespace Sys2Proof.Machine

/-! ## The clause of one stage -/

/-- What the invariant says of a state in stage `g`, beyond what it says of every state. -/
def State.StageClause (s : State) : Stage → Prop
  | .idle => True
  | .rxPrefix => s.idx.toNat + s.rem.toNat = 6 ∧ 0 < s.rem.toNat ∧ s.Receiving
  | .rxLen => s.idx.toNat = 6 ∧ s.rem.toNat = 1 ∧ isVar s.functionByte = true ∧ s.Receiving
  | .rxTail =>
    s.idx.toNat + s.rem.toNat = s.expectedLen ∧ s.expectedLen ≤ 256 ∧ 0 < s.rem.toNat ∧
    6 ≤ s.idx.toNat ∧ (isVar s.functionByte = true → 7 ≤ s.idx.toNat) ∧ s.Receiving
  | .rxCheck => s.idx.toNat = s.expectedLen ∧ s.expectedLen ≤ 256 ∧ s.rem = 0 ∧ s.Receiving
  | .rxSilence =>
    s.idx.toNat = s.expectedLen ∧ s.expectedLen ≤ 256 ∧ s.rem = 0 ∧ s.Receiving ∧
    s.crc = 0 ∧ s.byteAt 0 = some s.sid ∧ 0 < s.sil.toNat
  | .txCrc => s.idx.toNat ≤ s.txlen.toNat ∧ s.txlen.toNat ≤ 254
  | .txSend =>
    s.idx.toNat < s.txlen.toNat + 2 ∧ s.txlen.toNat ≤ 254 ∧
    s.byteAt s.txlen.toNat = some (lo8 s.crc) ∧ s.byteAt (s.txlen.toNat + 1) = some (hi8 s.crc)

/-- Of the clauses of the invariant that speak of one stage, only that of the state's own stage is to show. -/
theorem State.Inv.of_stage {s : State} {g : Stage} (hg : s.stage = g) (hbuf : Memory.wf s.buf = true)
    (hidx : s.idx.toNat ≤ 256) (hbusy : g ≠ .idle → s.status = .none ∧ s.done = false) (h : s.StageClause g) :
    s.Inv := by
  subst hg
  exact {
    bufCanonical := hbuf
    idxInside := hidx
    busyHasNoResult := hbusy
    rxPrefix := fun hs => by rw [hs] at h; exact h
    rxLen := fun hs => by rw [hs] at h; exact h
    rxTail := fun hs => by rw [hs] at h; exact h
    rxCheck := fun hs => by rw [hs] at h; exact h
    rxSilence := fun hs => by rw [hs] at h; exact h
    txCrc := fun hs => by rw [hs] at h; exact h
    txSend := fun hs => by rw [hs] at h; exact h }

/-- In `IDLE` the invariant asks for the canonical buffer and the bound on `IDX` only. -/
theorem State.Inv.of_idle {s : State} (hg : s.stage = .idle) (hbuf : Memory.wf s.buf = true)
    (hidx : s.idx.toNat ≤ 256) : s.Inv :=
  .of_stage hg hbuf hidx (fun h => absurd rfl h) trivial

/-- No clause speaks of the agents outside, and `done` may always fall. -/
theorem State.Inv.outside {s : State} (h : s.Inv) {d : Bool} (hd : d = true → s.done = true) (e : Env) :
    State.Inv { s with done := d, env := e } where
  bufCanonical := h.bufCanonical
  idxInside := h.idxInside
  busyHasNoResult hs := by
    obtain ⟨hstatus, hdone⟩ := h.busyHasNoResult hs
    exact ⟨hstatus, Bool.eq_false_iff.mpr fun ht => Bool.eq_false_iff.mp hdone (hd ht)⟩
  rxPrefix := h.rxPrefix
  rxLen := h.rxLen
  rxTail := h.rxTail
  rxCheck := h.rxCheck
  rxSilence := h.rxSilence
  txCrc := h.txCrc
  txSend := h.txSend

theorem State.Inv.withEnv {s : State} (h : s.Inv) (e : Env) : State.Inv { s with env := e } := h.outside id e

/-- The state in which the agent whose turn it is moves has the invariant. -/
theorem State.Inv.toMove {s : State} (h : s.Inv) (sig : List Signal) : (s.clearDone.withSignals sig).Inv :=
  h.outside (fun hd => absurd hd Bool.false_ne_true) _

/-- An operation that ends in failure keeps the invariant, whatever it failed with. -/
theorem State.Inv.fail {s : State} (h : s.Inv) (k : Status) : (s.fail k).Inv :=
  .of_idle rfl h.bufCanonical h.idxInside

/-! ## The bytes received so far -/

theorem firstBytes_succ (s : State) (n : Nat) : s.firstBytes (n + 1) = s.firstBytes n ++ [(s.byteAt n).getD 0] := by
  simp [State.firstBytes, List.range_succ]

theorem firstBytes_congr {s t : State} {n : Nat} (h : ∀ i < n, t.byteAt i = s.byteAt i) :
    t.firstBytes n = s.firstBytes n :=
  List.map_congr_left fun i hi => by rw [h i (List.mem_range.mp hi)]

theorem crc16_concat (l : List Byte) (b : Byte) : crc16 (l ++ [b]) = crcUpdate (crc16 l) b :=
  crcFold_append _ l [b]

section
variable {s : State} {b : Byte}

theorem len_succ_toNat {v : Len} (h : v.toNat ≤ 256) : (v + 1).toNat = v.toNat + 1 := by
  rw [BitVec.toNat_add]; simp; omega

theorem len_pred_toNat {v : Len} (h : 0 < v.toNat) : (v - 1).toNat = v.toNat - 1 := by
  bv_omega

/-- Inside the buffer a delivered byte is stored at `IDX`. -/
theorem takeByte_stores_at_idx (hi : s.idx.toNat ≤ 255) : (takeByte b s).byteAt s.idx.toNat = some b := by
  have h := byteAt_takeByte_same s b
  rwa [lowIndex_of_lt _ (by omega)] at h

theorem takeByte_keeps_byteAt (hi : s.idx.toNat ≤ 255) {a : Nat} (ha : a ≠ s.idx.toNat) :
    (takeByte b s).byteAt a = s.byteAt a :=
  byteAt_takeByte_other s b a (by rwa [lowIndex_of_lt _ (by omega)])

/-- A delivered byte is one more byte stored and folded into `CRC` (41_rtu_receive.md R112). -/
theorem takeByte_receiving (hi : s.idx.toNat ≤ 255) (h : s.Receiving) : (takeByte b s).Receiving := by
  obtain ⟨hwritten, hcrc, hrxlen⟩ := h
  have hidx : (takeByte b s).idx.toNat = s.idx.toNat + 1 := len_succ_toNat (by omega)
  refine ⟨fun i hlt => ?_, ?_, hrxlen⟩
  · rw [hidx] at hlt
    by_cases hii : i = s.idx.toNat
    · rw [hii, takeByte_stores_at_idx hi]; rfl
    · rw [takeByte_keeps_byteAt hi hii]; exact hwritten i (by omega)
  · have hold : (takeByte b s).firstBytes s.idx.toNat = s.firstBytes s.idx.toNat :=
      firstBytes_congr fun i hlt => takeByte_keeps_byteAt hi (by omega)
    rw [hidx, firstBytes_succ, hold, takeByte_stores_at_idx hi, takeByte_crc, hcrc]
    exact (crc16_concat _ b).symm

theorem takeByte_functionByte (h2 : 2 ≤ s.idx.toNat) (hi : s.idx.toNat ≤ 255) :
    (takeByte b s).functionByte = s.functionByte := by
  unfold State.functionByte
  rw [takeByte_keeps_byteAt hi (by omega)]

/-- Once the bytes that choose the frame's shape are in, a delivered byte does not change its length
(30_encoding.md R68). -/
theorem takeByte_expectedLen (h6 : 6 ≤ s.idx.toNat) (h7 : isVar s.functionByte = true → 7 ≤ s.idx.toNat)
    (hi : s.idx.toNat ≤ 255) : (takeByte b s).expectedLen = s.expectedLen := by
  unfold State.expectedLen
  rw [takeByte_functionByte (by omega) hi]
  by_cases hv : isVar s.functionByte = true
  · rw [takeByte_keeps_byteAt hi (by have := h7 hv; omega)]
  · simp [frameLen, hv]

/-- After a delivered byte, whether or not it ended its stage, the clause of the new stage is left to show. -/
theorem State.Inv.after_byte (h : s.Inv) (hs : s.stage ≠ .idle) (hi : s.idx.toNat ≤ 255) {r : Len} {g g' : Stage}
    (hg : g' = g) (hc : State.StageClause { takeByte b s with rem := r, stage := g' } g) :
    State.Inv { takeByte b s with rem := r, stage := g' } := by
  have hidx : (takeByte b s).idx.toNat ≤ 256 := by rw [takeByte_idx, len_succ_toNat (by omega)]; omega
  exact .of_stage hg (takeByte_wf b s h.bufCanonical) hidx (fun _ => h.busyHasNoResult hs) hc

end

end Sys2Proof.Machine
end

section
/-! Every step keeps the invariant (10_state.md R29): one lemma for each agent's move, then the step. -/

namespace Sys2Proof.Machine

variable {s t : State}

/-! ## The host's move -/

theorem recvStarted_inv (d : Byte) (h : s.Inv) (hd : s.done = false) : (recvStarted d s).Inv :=
  .of_stage (g := .rxPrefix) rfl h.bufCanonical (Nat.zero_le _) (fun _ => ⟨rfl, hd⟩)
    ⟨rfl, Nat.zero_lt_succ 5, fun _ hi => absurd hi (Nat.not_lt_zero _), rfl, rfl⟩

theorem xmitStarted_inv (d : Byte) {a : Len} (ha : a.toNat ≤ 254) (h : s.Inv) (hd : s.done = false) :
    (xmitStarted a d s).Inv :=
  .of_stage (g := .txCrc) rfl h.bufCanonical (Nat.zero_le _) (fun _ => ⟨rfl, hd⟩) ⟨Nat.zero_le _, ha⟩

theorem execCommand_keeps_inv {cw : CmdWord} (h : s.Inv) (hs : s.stage = .idle) (hd : s.done = false)
    (ht : exec (decodeCommand cw) s = .next t) : t.Inv := by
  rcases execCommand_next hs ht with
    ⟨c, r, n, rfl⟩ | ⟨-, rfl⟩ | ⟨-, rfl⟩ | ⟨-, ha, rfl⟩ | ⟨-, rfl⟩
  · exact .of_idle hs h.bufCanonical h.idxInside
  · exact .of_idle hs (writeByte_wf _ _ s h.bufCanonical) h.idxInside
  · exact recvStarted_inv _ h hd
  · exact xmitStarted_inv _ ha h hd
  · exact .of_idle rfl h.bufCanonical h.idxInside

theorem idleStage_keeps_inv (h : s.Inv) (hs : s.stage = .idle) (hd : s.done = false)
    (ht : idleStage s = .next t) : t.Inv := by
  rcases idleStage_next ht with rfl | ⟨cw, rest, -, hx⟩
  · exact h
  · exact execCommand_keeps_inv (s := s.withHostCmds rest) (h.withEnv _) hs hd hx

/-! ## The transport's move in the read stages (41_rtu_receive.md R112 to R114) -/

theorem one_lt_rem (hpos : 0 < s.rem.toNat) (hmore : s.rem ≠ 1) : 1 < s.rem.toNat := by
  bv_omega

/-- A byte after which the frame's length is known and bytes are still missing leaves the block in
`RX_TAIL` with the invariant. -/
theorem State.Inv.after_tail_byte {b : Byte} {r : Len} {g : Stage} (h : s.Inv) (hs : s.stage ≠ .idle)
    (hg : g = .rxTail) (hsum : s.idx.toNat + 1 + r.toNat = (takeByte b s).expectedLen)
    (hfits : (takeByte b s).expectedLen ≤ 256) (hpos : 0 < r.toNat) (h6 : 5 ≤ s.idx.toNat)
    (h7 : isVar (takeByte b s).functionByte = true → 6 ≤ s.idx.toNat) (hrec : s.Receiving) :
    State.Inv { takeByte b s with rem := r, stage := g } := by
  have hi : s.idx.toNat ≤ 255 := by omega
  have hidx : (takeByte b s).idx.toNat = s.idx.toNat + 1 := len_succ_toNat (by omega)
  exact h.after_byte hs hi hg (g := .rxTail) ⟨(congrArg (· + r.toNat) hidx).trans hsum, hfits, hpos,
    hidx.ge.trans' (by omega), fun hvar => hidx.ge.trans' (Nat.succ_le_succ (h7 hvar)), takeByte_receiving hi hrec⟩

/-- The sixth byte is in: the function byte chooses between `RX_LEN` and `RX_TAIL` (R113, first case). -/
theorem endPrefix_keeps_inv {b : Byte} (h : s.Inv) (hs : s.stage = .rxPrefix) (hlast : s.rem = 1)
    (ht : rxByte b s = .next t) : t.Inv := by
  obtain ⟨hsum, -, hrec⟩ := h.rxPrefix hs
  have hbusy : s.stage ≠ .idle := by simp [hs]
  have hfive : s.idx.toNat = 5 := by rw [hlast] at hsum; simpa using hsum
  have hi : s.idx.toNat ≤ 255 := by omega
  have hsix : (takeByte b s).idx.toNat = 6 := by rw [takeByte_idx, len_succ_toNat (by omega), hfive]
  have hrec' := takeByte_receiving (b := b) hi hrec
  obtain ⟨fc, hfc⟩ := Option.isSome_iff_exists.mp (hrec'.1 1 (by omega))
  have hfunction : (takeByte b s).functionByte = fc := by unfold State.functionByte; rw [hfc]; rfl
  have hdue : (takeByte b s).rem = 0 := by rw [takeByte_rem, hlast]; rfl
  rw [rxByte_prefix b fc s hs hlast hfc, endPrefix_due fc (takeByte b s) hs hdue] at ht
  cases ht
  split
  case isTrue hvar => exact h.after_byte hbusy hi rfl (g := .rxLen) ⟨hsix, rfl, hfunction.symm ▸ hvar, hrec'⟩
  case isFalse hfixed =>
    have hlen : (takeByte b s).expectedLen = 8 := by
      unfold State.expectedLen frameLen; rw [hfunction, if_neg hfixed]
    exact h.after_tail_byte hbusy rfl (by rw [hlen, hfive]; rfl) (by omega) (by decide) (by omega)
      (fun hvar => absurd (hfunction ▸ hvar) hfixed) hrec

theorem rxByte_prefix_keeps_inv {b : Byte} (h : s.Inv) (hs : s.stage = .rxPrefix)
    (ht : rxByte b s = .next t) : t.Inv := by
  by_cases hlast : s.rem = 1
  · exact endPrefix_keeps_inv h hs hlast ht
  · obtain ⟨hsum, hpos, hrec⟩ := h.rxPrefix hs
    have hone := one_lt_rem hpos hlast
    have hi : s.idx.toNat ≤ 255 := by omega
    have hsum' : (s.idx + 1).toNat + (s.rem - 1).toNat = 6 := by
      rw [len_succ_toNat (by omega), len_pred_toNat hpos]; omega
    have hpos' : 0 < (s.rem - 1).toNat := by rw [len_pred_toNat hpos]; omega
    rw [rxByte_more b s hlast] at ht
    cases ht
    exact h.after_byte (by simp [hs]) hi hs ⟨hsum', hpos', takeByte_receiving hi hrec⟩

/-- The length byte makes the frame too long, or `9 + L` bytes long (R113, second case). -/
theorem rxByte_length_keeps_inv {b : Byte} (h : s.Inv) (hs : s.stage = .rxLen)
    (ht : rxByte b s = .next t) : t.Inv := by
  obtain ⟨hsix, hone, hvar, hrec⟩ := h.rxLen hs
  have hi : s.idx.toNat ≤ 255 := by omega
  have hlen : (takeByte b s).expectedLen = 9 + b.toNat := by
    have hstored := takeByte_stores_at_idx (b := b) hi
    rw [hsix] at hstored
    unfold State.expectedLen frameLen
    rw [takeByte_functionByte (by omega) hi, if_pos hvar, hstored]
    rfl
  rw [rxByte_length b s hs (BitVec.eq_of_toNat_eq hone)] at ht
  cases ht
  by_cases hlong : 247 < b.toNat
  · rw [endLength_long _ _ hlong]
    exact .of_idle rfl (takeByte_wf b s h.bufCanonical)
      (by rw [fail_idx, takeByte_idx, len_succ_toNat (by omega)]; omega)
  · have hrem : (BitVec.ofNat 9 (b.toNat + 2)).toNat = b.toNat + 2 := by simp; omega
    rw [endLength_short _ _ (by omega)]
    exact h.after_tail_byte (by simp [hs]) rfl (by omega) (by omega) (by omega) (by omega) (fun _ => hsix.ge) hrec

/-- The tail takes the bytes the length promises; with the last of them the frame is whole (R113, third
case). -/
theorem rxByte_tail_keeps_inv {b : Byte} (h : s.Inv) (hs : s.stage = .rxTail)
    (ht : rxByte b s = .next t) : t.Inv := by
  obtain ⟨hsum, hfits, hpos, h6, h7, hrec⟩ := h.rxTail hs
  have hbusy : s.stage ≠ .idle := by simp [hs]
  have hi : s.idx.toNat ≤ 255 := by omega
  have hlen := takeByte_expectedLen (b := b) h6 h7 hi
  by_cases hlast : s.rem = 1
  · have hidx : (s.idx + 1).toNat = s.expectedLen := by
      rw [hlast] at hsum; rw [len_succ_toNat (by omega)]; exact hsum
    have hrem : s.rem - 1 = 0 := by rw [hlast]; rfl
    rw [rxByte_tail b s hs hlast] at ht
    cases ht
    exact h.after_byte hbusy hi rfl (g := .rxCheck)
      ⟨hidx.trans hlen.symm, hlen.trans_le hfits, hrem, takeByte_receiving hi hrec⟩
  · have hone := one_lt_rem hpos hlast
    have hrem : (s.rem - 1).toNat = s.rem.toNat - 1 := len_pred_toNat hpos
    rw [rxByte_more b s hlast] at ht
    cases ht
    exact h.after_tail_byte hbusy hs (by omega) (by omega) (by omega) (by omega)
      (fun hvar => by have := h7 (takeByte_functionByte (b := b) (by omega) hi ▸ hvar); omega) hrec

/-- In a read stage `IDX` is inside the buffer and bytes are still wanted (R29 (c), (e)). -/
theorem State.Inv.read_bounds (h : s.Inv) (hs : s.stage.isRead = true) :
    s.idx.toNat ≤ 255 ∧ 0 < s.rem.toNat := by
  cases hg : s.stage
  case rxPrefix => obtain ⟨hsum, hpos, -⟩ := h.rxPrefix hg; omega
  case rxLen => obtain ⟨hsix, hone, -⟩ := h.rxLen hg; omega
  case rxTail => obtain ⟨hsum, hfits, hpos, -⟩ := h.rxTail hg; omega
  all_goals rw [hg] at hs; cases hs

theorem State.Inv.read_rem_ne_zero (h : s.Inv) (hs : s.stage.isRead = true) : s.rem ≠ 0 := by
  have := (h.read_bounds hs).2
  rintro hzero
  rw [hzero] at this
  exact absurd this (by decide)

theorem rxByte_keeps_inv {b : Byte} (h : s.Inv) (hs : s.stage.isRead = true) (ht : rxByte b s = .next t) : t.Inv := by
  cases hg : s.stage
  case rxPrefix => exact rxByte_prefix_keeps_inv h hg ht
  case rxLen => exact rxByte_length_keeps_inv h hg ht
  case rxTail => exact rxByte_tail_keeps_inv h hg ht
  all_goals rw [hg] at hs; cases hs

theorem readStage_keeps_inv (h : s.Inv) (hs : s.stage.isRead = true)
    (ht : readStage s = .next t) : t.Inv := by
  rcases readStage_next (h.read_rem_ne_zero hs) ht with rfl | ⟨rest, rfl⟩ | ⟨b, rest, -, hb⟩
  · exact h
  · exact State.Inv.fail (s := s.withRxLine rest) (h.withEnv _) _
  · exact rxByte_keeps_inv (s := s.withRxLine rest) (h.withEnv _) hs hb

/-! ## The framer's checks and the tick (41_rtu_receive.md R116 to R118) -/

theorem checkFrame_keeps_inv (h : s.Inv) (hs : s.stage = .rxCheck) : (checkFrame s).Inv := by
  obtain ⟨hidx, hfits, hrem, hrec⟩ := h.rxCheck hs
  by_cases hcrc : s.crc = 0
  · have hlen : 8 ≤ s.expectedLen := frameLen_ge _ _
    obtain ⟨b, hb⟩ := Option.isSome_iff_exists.mp (hrec.1 0 (by omega))
    by_cases haddr : b = s.sid
    · rw [haddr] at hb
      rw [checkFrame_ok s hcrc hb]
      by_cases hzero : silenceUs s.env.charTime = 0
      · rw [startSilence_zero s hzero]
        exact .of_idle rfl h.bufCanonical h.idxInside
      · have hwait : 0 < (silenceUs s.env.charTime).toNat := by bv_omega
        rw [startSilence_wait s hzero]
        exact .of_stage (g := .rxSilence) rfl h.bufCanonical h.idxInside
          (fun _ => h.busyHasNoResult (by simp [hs])) ⟨hidx, hfits, hrem, hrec, hcrc, hb, hwait⟩
    · rw [checkFrame_addr s b hcrc hb haddr]
      exact h.fail _
  · rw [checkFrame_crc s hcrc]
    exact h.fail _

theorem silenceStage_keeps_inv (h : s.Inv) (hs : s.stage = .rxSilence) (ht : silenceStage s = .next t) : t.Inv := by
  rcases silenceStage_next hs ht with rfl | ⟨n, hmore, rfl⟩ | ⟨n, rfl⟩
  · exact h
  · obtain ⟨hidx, hfits, hrem, hrec, hcrc, haddr, hpos⟩ := h.rxSilence hs
    have hleft : 0 < (s.sil - 1).toNat := by bv_omega
    exact .of_stage (g := .rxSilence) hs h.bufCanonical h.idxInside
      (fun _ => h.busyHasNoResult (by simp [hs])) ⟨hidx, hfits, hrem, hrec, hcrc, haddr, hleft⟩
  · exact .of_idle rfl h.bufCanonical h.idxInside

/-! ## The transmit stages (42_rtu_transmit.md R142 to R144) -/

theorem foldByte_keeps_inv (h : s.Inv) (hs : s.stage = .txCrc) (hlt : s.idx.toNat < s.txlen.toNat) :
    (foldByte s).Inv := by
  obtain ⟨-, hfits⟩ := h.txCrc hs
  have hidx : (foldByte s).idx.toNat = s.idx.toNat + 1 := len_succ_toNat (by omega)
  have hres := h.busyHasNoResult (by simp [hs])
  refine .of_stage (g := .txCrc) (by simp [hs]) (by simpa using h.bufCanonical) (by omega)
    (fun _ => by simpa using hres) ⟨?_, ?_⟩
  · rw [hidx, foldByte_txlen]; omega
  · rwa [foldByte_txlen]

theorem appendCrc_keeps_inv (h : s.Inv) (hs : s.stage = .txCrc) (ht : appendCrc s = .next t) : t.Inv := by
  obtain ⟨-, hfits⟩ := h.txCrc hs
  obtain ⟨u, hu, hlo, hhi, -, hregs, hwf⟩ := appendCrc_inside s hfits
  cases ht.symm.trans hu
  rw [hregs]
  exact .of_stage (g := .txSend) rfl (hwf h.bufCanonical) (Nat.zero_le _)
    (fun _ => h.busyHasNoResult (by simp [hs])) ⟨Nat.zero_lt_succ _, hfits, hlo, hhi⟩

theorem crcStage_keeps_inv (h : s.Inv) (hs : s.stage = .txCrc) (ht : crcStage s = .next t) : t.Inv := by
  rcases crcStage_next ht with ⟨hlt, rfl⟩ | ⟨-, ha⟩
  · exact foldByte_keeps_inv h hs hlt
  · exact appendCrc_keeps_inv h hs ha

theorem sendStage_keeps_inv (h : s.Inv) (hs : s.stage = .txSend) (ht : sendStage s = .next t) : t.Inv := by
  obtain ⟨hlt, hfits, hlo, hhi⟩ := h.txSend hs
  have hidx : (s.idx + 1).toNat = s.idx.toNat + 1 := len_succ_toNat (by omega)
  rcases sendStage_next ht with rfl | ⟨rest, rfl⟩ | ⟨rest, hmore, rfl⟩ | ⟨rest, -, rfl⟩
  · exact h
  · exact .of_idle rfl h.bufCanonical h.idxInside
  · have hres := h.busyHasNoResult (by simp [hs])
    refine .of_stage (g := .txSend) (by simp [hs]) (by simpa using h.bufCanonical) (by simp; omega)
      (fun _ => by simpa using hres) ⟨?_, ?_, ?_, ?_⟩
    · simp; omega
    · simpa using hfits
    · simpa using hlo
    · simpa using hhi
  · exact .of_idle rfl (by simpa using h.bufCanonical) (by simp; omega)

/-! ## The step -/

theorem agentStep_keeps_inv (h : s.Inv) (hd : s.done = false) (ht : agentStep s = .next t) : t.Inv := by
  cases hs : s.stage
  case idle => rw [agentStep_idle s hs] at ht; exact idleStage_keeps_inv h hs hd ht
  case rxCheck => rw [agentStep_rxCheck s hs] at ht; cases ht; exact checkFrame_keeps_inv h hs
  case rxSilence => rw [agentStep_rxSilence s hs] at ht; exact silenceStage_keeps_inv h hs ht
  case txCrc => rw [agentStep_txCrc s hs] at ht; exact crcStage_keeps_inv h hs ht
  case txSend => rw [agentStep_txSend s hs] at ht; exact sendStage_keeps_inv h hs ht
  all_goals
    have hread : s.stage.isRead = true := by rw [hs]; rfl
    rw [agentStep_read s hread] at ht
    exact readStage_keeps_inv h hread ht

theorem step_keeps_inv (h : s.Inv) (ht : step s = .next t) : t.Inv := by
  rcases step_next ht with ⟨sig, ha⟩ | ⟨rest, -, rfl⟩ | ⟨e, rfl⟩
  · exact agentStep_keeps_inv (h.toMove sig) rfl ha
  · exact .of_idle rfl rfl (Nat.zero_le _)
  · exact h.outside (fun hd => absurd hd Bool.false_ne_true) e

/-- Settles O51: what one step does keeps each clause of R29. -/
theorem everyStepKeepsTheInvariant : Obligations.EveryStepKeepsTheInvariant :=
  fun _ _ => step_keeps_inv

end Sys2Proof.Machine
end

section
/-! What the invariant gives of every run, what writes `STATUS` and the buffer, and the reset state
(10_state.md R10, R19, R28, R29). -/

namespace Sys2Proof.Machine

/-! ## Reset and reachable states -/

/-- Settles O43: the values of R28, and a buffer that lists nothing. -/
theorem resetStateHasTheResetValues : Obligations.ResetStateHasTheResetValues :=
  ⟨rfl, rfl, rfl, rfl, rfl, rfl, rfl, rfl, rfl, fun a => lookup_nil a⟩

theorem reset_inv : State.reset.Inv := .of_idle rfl rfl (Nat.zero_le _)

/-- Settles O50: the block is idle after reset, with an empty buffer and `IDX` 0. -/
theorem resetStateSatisfiesTheInvariant : Obligations.ResetStateSatisfiesTheInvariant := reset_inv

theorem reachable_inv {s : State} (h : Reachable s) : s.Inv := by
  induction h with
  | reset => exact reset_inv
  | outside s e _ ih => exact ih.withEnv e
  | step s t _ hst ih => exact step_keeps_inv ih hst

theorem byteAt_eq_getD {s : State} {n i : Nat} (h : s.Written n) (hi : i < n) :
    s.byteAt i = some ((s.byteAt i).getD 0) := by
  obtain ⟨b, hb⟩ := Option.isSome_iff_exists.mp (h i hi)
  rw [hb]; rfl

/-- In `RX_TAIL` the frame's shape is known: R29 (b), third row. -/
theorem State.Inv.tail_shape {s : State} (h : s.Inv) (hs : s.stage = .rxTail) : ∃ fc, s.byteAt 1 = some fc ∧
    (isVar fc = false → s.idx.toNat + s.rem.toNat = 8) ∧
    (isVar fc = true → ∃ l, s.byteAt 6 = some l ∧ s.idx.toNat + s.rem.toNat = 9 + l.toNat ∧
      9 + l.toNat ≤ 256) := by
  obtain ⟨hsum, hfits, -, h6, h7, hwritten, -, -⟩ := h.rxTail hs
  unfold State.expectedLen frameLen at hsum hfits
  refine ⟨s.functionByte, byteAt_eq_getD hwritten (by omega), fun hfixed => ?_, fun hvar => ?_⟩
  · rwa [if_neg (by simp [hfixed])] at hsum
  · rw [if_pos hvar] at hsum hfits
    exact ⟨_, byteAt_eq_getD hwritten (h7 hvar), hsum, hfits⟩

/-- Settles O53: every reachable state has the invariant, and its clauses give those of R29. -/
theorem reachableStatesStayWithinTheBuffer : Obligations.ReachableStatesStayWithinTheBuffer := by
  intro s hr
  have h := reachable_inv hr
  refine ⟨h.idxInside, fun hs => (h.rxPrefix hs).1, fun hs => ?_, h.tail_shape, fun hs => (h.read_bounds hs).1,
    h.txCrc, fun hs => ?_, fun hs => (h.read_bounds hs).2, fun hs => (h.busyHasNoResult hs).1⟩
  · obtain ⟨hsix, hone, -⟩ := h.rxLen hs
    exact ⟨hsix, hone⟩
  · obtain ⟨hlt, hfits, -⟩ := h.txSend hs
    omega

/-! ## What writes `STATUS` (R19) -/

section
variable {s t : State}

/-- Outside `IDLE` a step of the agents keeps `STATUS` unless it completes the operation. -/
def KeepsStatusOrCompletes (s t : State) : Prop := t.status = s.status ∨ (t.stage = .idle ∧ t.done = true)

theorem readStage_status (ht : readStage s = .next t) : KeepsStatusOrCompletes s t := by
  have ended : ∀ u : State, endOfRead u = .next t → u.status = s.status → KeepsStatusOrCompletes s t := by
    intro u hu hkept
    rcases endOfRead_next hu with ⟨n, r, g, rfl⟩ | ⟨n, rfl⟩
    · exact .inl hkept
    · exact .inr ⟨rfl, rfl⟩
  by_cases hr : s.rem = 0
  · unfold readStage at ht
    rw [if_pos hr] at ht
    exact ended s ht rfl
  · rcases readStage_next hr ht with rfl | ⟨rest, rfl⟩ | ⟨b, rest, -, hb⟩
    · exact .inl rfl
    · exact .inr ⟨rfl, rfl⟩
    · rcases rxByte_next hb with rfl | he
      · exact .inl rfl
      · exact ended _ he rfl

theorem checkFrame_status (s : State) : KeepsStatusOrCompletes s (checkFrame s) := by
  obtain ⟨n, ⟨k, h⟩ | h | h⟩ := checkFrame_cases s <;> rw [h]
  · exact .inr ⟨rfl, rfl⟩
  · exact .inr ⟨rfl, rfl⟩
  · exact .inl rfl

theorem silenceStage_status (hs : s.stage = .rxSilence) (ht : silenceStage s = .next t) :
    KeepsStatusOrCompletes s t := by
  rcases silenceStage_next hs ht with rfl | ⟨n, -, rfl⟩ | ⟨n, rfl⟩
  · exact .inl rfl
  · exact .inl rfl
  · exact .inr ⟨rfl, rfl⟩

theorem crcStage_status (ht : crcStage s = .next t) : KeepsStatusOrCompletes s t := by
  rcases crcStage_next ht with ⟨-, rfl⟩ | ⟨-, ha⟩
  · exact .inl (foldByte_status s)
  · unfold appendCrc at ha
    split at ha
    · cases ha; exact .inl rfl
    · cases ha

theorem sendStage_status (ht : sendStage s = .next t) : KeepsStatusOrCompletes s t := by
  rcases sendStage_next ht with rfl | ⟨rest, rfl⟩ | ⟨rest, -, rfl⟩ | ⟨rest, -, rfl⟩
  · exact .inl rfl
  · exact .inr ⟨rfl, rfl⟩
  · exact .inl (sendByte_status _)
  · exact .inr ⟨rfl, rfl⟩

theorem agentStep_status (hs : s.stage ≠ .idle) (ht : agentStep s = .next t) : KeepsStatusOrCompletes s t := by
  cases hg : s.stage
  case idle => exact absurd hg hs
  case rxCheck => rw [agentStep_rxCheck s hg] at ht; cases ht; exact checkFrame_status s
  case rxSilence => rw [agentStep_rxSilence s hg] at ht; exact silenceStage_status hg ht
  case txCrc => rw [agentStep_txCrc s hg] at ht; exact crcStage_status ht
  case txSend => rw [agentStep_txSend s hg] at ht; exact sendStage_status ht
  all_goals
    rw [agentStep_read s (by rw [hg]; rfl)] at ht
    exact readStage_status ht

/-- In `IDLE` only `RECV` and `XMIT` write `STATUS`. -/
theorem idleStage_status (hs : s.stage = .idle) (ht : idleStage s = .next t) :
    t.status = s.status ∨ ∃ cw rest, s.env.hostCmds = cw :: rest ∧ (cmdOp cw = 3 ∨ cmdOp cw = 4) := by
  rcases idleStage_next ht with rfl | ⟨cw, rest, hc, hx⟩
  · exact .inl rfl
  · rcases execCommand_next (s := s.withHostCmds rest) hs hx with
      ⟨c, r, n, rfl⟩ | ⟨-, rfl⟩ | ⟨hrecv, -⟩ | ⟨hxmit, -⟩ | ⟨hxmit, -⟩
    · exact .inl rfl
    · exact .inl rfl
    · exact .inr ⟨cw, rest, hc, .inl hrecv⟩
    · exact .inr ⟨cw, rest, hc, .inr hxmit⟩
    · exact .inr ⟨cw, rest, hc, .inr hxmit⟩

end

/-- Settles O47: by the agent whose turn it is; a level outside writes no register. -/
theorem statusChangesOnlyAtAcceptanceAndCompletion : Obligations.StatusChangesOnlyAtAcceptanceAndCompletion := by
  intro s t ht hne
  rcases step_next ht with ⟨sig, ha⟩ | ⟨rest, hr, -⟩ | ⟨e, rfl⟩
  · by_cases hs : s.stage = .idle
    · rw [agentStep_idle (s.clearDone.withSignals sig) hs] at ha
      exact .inl ⟨hs, (idleStage_status (s := s.clearDone.withSignals sig) hs ha).resolve_left hne⟩
    · exact .inr (.inl ⟨hs, (agentStep_status (s := s.clearDone.withSignals sig) hs ha).resolve_left hne⟩)
  · exact .inr (.inr ⟨rest, hr⟩)
  · exact absurd rfl hne

/-! ## What writes the buffer (R10, 20_memory.md R49) -/

section
variable {s t : State} {a : Nat}

theorem byteAt_congr (h : t.buf = s.buf) : t.byteAt a = s.byteAt a := by unfold State.byteAt; rw [h]

/-- In `IDLE` a byte changes only at the index of a `BUF_WR`. -/
theorem idleStage_byteAt (hs : s.stage = .idle) (ht : idleStage s = .next t) (hne : t.byteAt a ≠ s.byteAt a) :
    ∃ cw rest, s.env.hostCmds = cw :: rest ∧ cmdOp cw = 5 ∧ a = (cmdIndex cw).toNat := by
  rcases idleStage_next ht with rfl | ⟨cw, rest, hc, hx⟩
  · exact absurd rfl hne
  · rcases execCommand_next (s := s.withHostCmds rest) hs hx with
      ⟨c, r, n, rfl⟩ | ⟨hwr, rfl⟩ | ⟨-, rfl⟩ | ⟨-, -, rfl⟩ | ⟨-, rfl⟩
    · exact absurd rfl hne
    · exact ⟨cw, rest, hc, hwr, by_contra fun h => hne (byteAt_writeByte_other _ _ _ a h)⟩
    · exact absurd rfl hne
    · exact absurd rfl hne
    · exact absurd rfl hne

/-- The end of a read stage writes nothing into the buffer, so a byte changes only at `IDX`, to the byte
delivered. -/
theorem readStage_byteAt (hr : s.rem ≠ 0) (hi : s.idx.toNat ≤ 255) (ht : readStage s = .next t)
    (hne : t.byteAt a ≠ s.byteAt a) :
    a = s.idx.toNat ∧ ∃ b rest, s.env.rxLine = .byte b :: rest ∧ t.byteAt a = some b := by
  rcases readStage_next hr ht with rfl | ⟨rest, rfl⟩ | ⟨b, rest, hl, hb⟩
  · exact absurd rfl hne
  · exact absurd rfl hne
  · have hbuf : t.buf = (takeByte b (s.withRxLine rest)).buf := by
      rcases rxByte_next hb with rfl | he
      · rfl
      · rcases endOfRead_next he with ⟨n, r, g, rfl⟩ | ⟨n, rfl⟩ <;> rfl
    rw [byteAt_congr hbuf] at hne ⊢
    have ha : a = s.idx.toNat := by_contra fun h => hne (takeByte_keeps_byteAt (s := s.withRxLine rest) hi h)
    exact ⟨ha, b, rest, hl, ha ▸ takeByte_stores_at_idx (s := s.withRxLine rest) hi⟩

/-- In `TX_CRC` a byte changes only where the CRC is appended. -/
theorem crcStage_byteAt (hfits : s.txlen.toNat ≤ 254) (ht : crcStage s = .next t) (hne : t.byteAt a ≠ s.byteAt a) :
    t.stage = .txSend ∧ (a = s.txlen.toNat ∨ a = s.txlen.toNat + 1) := by
  rcases crcStage_next ht with ⟨-, rfl⟩ | ⟨-, ha⟩
  · exact absurd (byteAt_foldByte s a) hne
  · obtain ⟨u, hu, -, -, hkept, hregs, -⟩ := appendCrc_inside s hfits
    cases ha.symm.trans hu
    refine ⟨by rw [hregs], by_contra fun h => hne (hkept a ?_ ?_)⟩ <;> omega

theorem checkFrame_byteAt (s : State) (a : Nat) : (checkFrame s).byteAt a = s.byteAt a := by
  obtain ⟨n, ⟨k, h⟩ | h | h⟩ := checkFrame_cases s <;> rw [h] <;> rfl

theorem silenceStage_byteAt (hs : s.stage = .rxSilence) (ht : silenceStage s = .next t) :
    t.byteAt a = s.byteAt a := by
  rcases silenceStage_next hs ht with rfl | ⟨n, -, rfl⟩ | ⟨n, rfl⟩ <;> rfl

theorem sendStage_byteAt (ht : sendStage s = .next t) : t.byteAt a = s.byteAt a := by
  rcases sendStage_next ht with rfl | ⟨rest, rfl⟩ | ⟨rest, -, rfl⟩ | ⟨rest, -, rfl⟩
  · rfl
  · rfl
  · exact byteAt_sendByte _ a
  · exact byteAt_sendByte _ a

/-- Which agent's move can change a byte of the buffer, and where. -/
theorem agentStep_byteAt (h : s.Inv) (ht : agentStep s = .next t) (hne : t.byteAt a ≠ s.byteAt a) :
    (s.stage = .idle ∧ ∃ cw rest, s.env.hostCmds = cw :: rest ∧ cmdOp cw = 5 ∧ a = (cmdIndex cw).toNat) ∨
    (s.stage.isRead = true ∧ a = s.idx.toNat ∧ ∃ b rest, s.env.rxLine = .byte b :: rest ∧ t.byteAt a = some b) ∨
    (s.stage = .txCrc ∧ t.stage = .txSend ∧ (a = s.txlen.toNat ∨ a = s.txlen.toNat + 1)) := by
  cases hs : s.stage
  case idle => rw [agentStep_idle s hs] at ht; exact .inl ⟨rfl, idleStage_byteAt hs ht hne⟩
  case rxCheck => rw [agentStep_rxCheck s hs] at ht; cases ht; exact absurd (checkFrame_byteAt s a) hne
  case rxSilence => rw [agentStep_rxSilence s hs] at ht; exact absurd (silenceStage_byteAt hs ht) hne
  case txCrc =>
    rw [agentStep_txCrc s hs] at ht
    exact .inr (.inr ⟨rfl, crcStage_byteAt (h.txCrc hs).2 ht hne⟩)
  case txSend => rw [agentStep_txSend s hs] at ht; exact absurd (sendStage_byteAt ht) hne
  all_goals
    have hread : s.stage.isRead = true := by rw [hs]; rfl
    rw [agentStep_read s hread] at ht
    exact .inr (.inl ⟨rfl, readStage_byteAt (h.read_rem_ne_zero hread) (h.read_bounds hread).1 ht hne⟩)

end

/-- Settles O48: by the agent whose turn it is; a level outside writes no byte. -/
theorem bufferIsWrittenOnlyByItsThreeWriters : Obligations.BufferIsWrittenOnlyByItsThreeWriters := by
  intro s t a h ht hne
  rcases step_next ht with ⟨sig, ha⟩ | ⟨rest, hr, -⟩ | ⟨e, rfl⟩
  · rcases agentStep_byteAt (h.toMove sig) ha hne with hwr | hbyte | happend
    · exact .inl hwr
    · exact .inr (.inl hbyte)
    · exact .inr (.inr (.inl happend))
  · exact .inr (.inr (.inr ⟨rest, hr⟩))
  · exact absurd rfl hne

end Sys2Proof.Machine
end

section
/-! The outputs and the pins (10_state.md R15, R19, R23, R24; 43_host_access.md R163; 60_exceptions.md R202). -/

namespace Sys2Proof.Machine

/-- Settles O58: the flags are the tests of `STAGE` and `STATUS`; the codes are those of the tables. -/
theorem outputsAreFunctionsOfTheState : Obligations.OutputsAreFunctionsOfTheState :=
  ⟨fun _ => ⟨bne_iff_ne, beq_iff_eq, beq_iff_eq, rfl, rfl, rfl, rfl⟩, rfl, rfl⟩

/-- Without `rst` a cycle is the move of the agent whose turn it is, on the pins of the cycle. -/
theorem cycle_eq_agentStep {p : PortIn} (s : State) (h : p.rst = false) :
    cycle p s = agentStep (s.drive p).clearDone :=
  step_undisturbed _ (by simp [State.drive, h])

theorem cycle_readFailure {p : PortIn} {s : State} (h : p.rst = false) (hs : s.stage.isRead = true)
    (hr : 0 < s.rem.toNat) (hf : p.rxFail = true) :
    cycle p s = .next (((s.drive p).clearDone.withRxLine []).fail .failRead) := by
  have hne : s.rem ≠ 0 := by rintro h0; rw [h0] at hr; exact absurd hr (by decide)
  rw [cycle_eq_agentStep s h, agentStep_read (s.drive p).clearDone hs]
  exact readStage_fail _ [] hne (by simp [State.drive, rxAnswers, hf])

theorem cycle_writeFailure {p : PortIn} {s : State} (h : p.rst = false) (hs : s.stage = .txSend)
    (hf : p.txFail = true) : cycle p s = .next (((s.drive p).clearDone.withTxLine []).fail .failWrite) := by
  rw [cycle_eq_agentStep s h, agentStep_txSend (s.drive p).clearDone hs]
  exact sendStage_fail _ [] (by simp [State.drive, txAnswers, hf])

/-- Settles O59: the answer a failure pin gives is the failure, whatever the other pin says (R202). -/
theorem failureHasPriorityAtThePins : Obligations.FailureHasPriorityAtThePins := by
  intro p s h
  constructor
  · intro hs hr hf
    exact ⟨_, cycle_readFailure h hs hr hf, rfl, rfl, rfl, rfl⟩
  · intro hs hf
    exact ⟨_, cycle_writeFailure h hs hf, rfl, rfl, rfl, rfl⟩

/-! ## A busy block does not look at the command channel

Outside `IDLE` every agent's move commutes with a change of the words the host still has to present. -/

/-- A change of the next state, where there is one. -/
def mapNext (f : State → State) : Result → Result
  | .next t => .next (f t)
  | .fault e => .fault e
  | .refused e => .refused e

section
variable (l : List CmdWord) (s : State)

theorem readByte_withHostCmds (i : Byte) :
    (s.withHostCmds l).readByte i = ((s.readByte i).1, (s.readByte i).2.withHostCmds l) := by
  cases hb : s.byteAt i.toNat with
  | some b => rw [readByte_listed s i b hb, readByte_listed (s.withHostCmds l) i b hb]
  | none => rw [readByte_unlisted s i hb, readByte_unlisted (s.withHostCmds l) i hb]; rfl

theorem endPrefix_withHostCmds (fc : Byte) :
    endPrefix fc (s.withHostCmds l) = mapNext (State.withHostCmds l) (endPrefix fc s) := by
  by_cases hdue : s.stage = .rxPrefix ∧ s.rem = 0
  · rw [endPrefix_due fc s hdue.1 hdue.2, endPrefix_due fc (s.withHostCmds l) hdue.1 hdue.2]
    cases isVar fc <;> rfl
  · have hnot : s.stage ≠ .rxPrefix ∨ s.rem ≠ 0 := by tauto
    rw [endPrefix_not_due fc s hnot, endPrefix_not_due fc (s.withHostCmds l) hnot]
    rfl

theorem endLength_withHostCmds (b : Byte) :
    endLength b (s.withHostCmds l) = (endLength b s).withHostCmds l := by
  rcases Nat.lt_or_ge 247 b.toNat with hlong | hshort
  · rw [endLength_long b _ hlong, endLength_long b _ hlong]; rfl
  · rw [endLength_short b _ hshort, endLength_short b _ hshort]; rfl

theorem endOfRead_withHostCmds :
    endOfRead (s.withHostCmds l) = mapNext (State.withHostCmds l) (endOfRead s) := by
  cases hs : s.stage <;> simp only [endOfRead, withHostCmds_stage, hs]
  case rxPrefix =>
    rw [runFunctionByte_eq, runFunctionByte_eq, readByte_withHostCmds, endPrefix_withHostCmds]
  case rxLen =>
    rw [withHostCmds_idx, readByte_withHostCmds, endLength_withHostCmds]; rfl
  all_goals rfl

theorem rxByte_withHostCmds (b : Byte) :
    rxByte b (s.withHostCmds l) = mapNext (State.withHostCmds l) (rxByte b s) := by
  have htake : takeByte b (s.withHostCmds l) = (takeByte b s).withHostCmds l := rfl
  unfold rxByte
  rw [htake, withHostCmds_rem]
  split
  · exact endOfRead_withHostCmds l _
  · rfl

theorem readStage_withHostCmds :
    readStage (s.withHostCmds l) = mapNext (State.withHostCmds l) (readStage s) := by
  by_cases hr : s.rem = 0
  · unfold readStage
    rw [withHostCmds_rem, if_pos hr, if_pos hr]
    exact endOfRead_withHostCmds l s
  · rcases hl : s.env.rxLine with _ | ⟨b | _, rest⟩
    · rw [readStage_wait s hr hl, readStage_wait (s.withHostCmds l) hr hl]; rfl
    · rw [readStage_byte s b rest hr hl, readStage_byte (s.withHostCmds l) b rest hr hl]
      exact rxByte_withHostCmds l (s.withRxLine rest) b
    · rw [readStage_fail s rest hr hl, readStage_fail (s.withHostCmds l) rest hr hl]; rfl

theorem startSilence_withHostCmds : startSilence (s.withHostCmds l) = (startSilence s).withHostCmds l := by
  by_cases hzero : silenceUs s.env.charTime = 0
  · rw [startSilence_zero s hzero, startSilence_zero (s.withHostCmds l) hzero]; rfl
  · rw [startSilence_wait s hzero, startSilence_wait (s.withHostCmds l) hzero]; rfl

theorem checkFrame_withHostCmds : checkFrame (s.withHostCmds l) = (checkFrame s).withHostCmds l := by
  unfold checkFrame
  rw [readByte_withHostCmds, withHostCmds_crc, withHostCmds_sid]
  split
  · rfl
  · split
    · rfl
    · exact startSilence_withHostCmds l _

theorem tick_withHostCmds : tick (s.withHostCmds l) = (tick s).withHostCmds l := by
  by_cases hs : s.stage = .rxSilence
  · by_cases h1 : s.sil = 1
    · rw [tick_last s hs h1, tick_last (s.withHostCmds l) hs h1]; rfl
    · rw [tick_counts s hs h1, tick_counts (s.withHostCmds l) hs h1]; rfl
  · rw [tick_elsewhere s hs, tick_elsewhere (s.withHostCmds l) hs]

theorem silenceStage_withHostCmds :
    silenceStage (s.withHostCmds l) = mapNext (State.withHostCmds l) (silenceStage s) := by
  cases hn : s.env.ticks with
  | zero => rw [silenceStage_wait s hn, silenceStage_wait (s.withHostCmds l) hn]; rfl
  | succ n =>
    rw [silenceStage_tick s n hn, silenceStage_tick (s.withHostCmds l) n hn]
    exact congrArg Host.Outcome.next (tick_withHostCmds l (s.withTicks n))

theorem foldByte_withHostCmds : foldByte (s.withHostCmds l) = (foldByte s).withHostCmds l := by
  unfold foldByte
  rw [withHostCmds_idx, readByte_withHostCmds]
  rfl

theorem crcStage_withHostCmds :
    crcStage (s.withHostCmds l) = mapNext (State.withHostCmds l) (crcStage s) := by
  rcases Nat.lt_or_ge s.idx.toNat s.txlen.toNat with hlt | hge
  · rw [crcStage_fold s hlt, crcStage_fold (s.withHostCmds l) hlt, foldByte_withHostCmds]; rfl
  · rw [crcStage_append s hge, crcStage_append (s.withHostCmds l) hge]
    unfold appendCrc
    rw [withHostCmds_txlen]
    split <;> rfl

theorem sendByte_withHostCmds : sendByte (s.withHostCmds l) = (sendByte s).withHostCmds l := by
  unfold sendByte
  rw [withHostCmds_idx, readByte_withHostCmds]
  unfold State.withHostCmds
  simp

theorem byteAccepted_withHostCmds : byteAccepted (s.withHostCmds l) = (byteAccepted s).withHostCmds l := by
  unfold byteAccepted
  rw [sendByte_withHostCmds, withHostCmds_idx, withHostCmds_txlen]
  split <;> rfl

theorem sendStage_withHostCmds :
    sendStage (s.withHostCmds l) = mapNext (State.withHostCmds l) (sendStage s) := by
  rcases hl : s.env.txLine with _ | ⟨_ | _, rest⟩
  · rw [sendStage_wait s hl, sendStage_wait (s.withHostCmds l) hl]; rfl
  · rw [sendStage_accept s rest hl, sendStage_accept (s.withHostCmds l) rest hl]
    exact congrArg Host.Outcome.next (byteAccepted_withHostCmds l (s.withTxLine rest))
  · rw [sendStage_fail s rest hl, sendStage_fail (s.withHostCmds l) rest hl]; rfl

theorem agentStep_withHostCmds (hs : s.stage ≠ .idle) :
    agentStep (s.withHostCmds l) = mapNext (State.withHostCmds l) (agentStep s) := by
  cases hg : s.stage
  case idle => exact absurd hg hs
  case rxCheck =>
    rw [agentStep_rxCheck s hg, agentStep_rxCheck (s.withHostCmds l) hg, checkFrame_withHostCmds]; rfl
  case rxSilence =>
    rw [agentStep_rxSilence s hg, agentStep_rxSilence (s.withHostCmds l) hg]; exact silenceStage_withHostCmds l s
  case txCrc => rw [agentStep_txCrc s hg, agentStep_txCrc (s.withHostCmds l) hg]; exact crcStage_withHostCmds l s
  case txSend => rw [agentStep_txSend s hg, agentStep_txSend (s.withHostCmds l) hg]; exact sendStage_withHostCmds l s
  all_goals
    have hread : s.stage.isRead = true := by rw [hg]; rfl
    rw [agentStep_read s hread, agentStep_read (s.withHostCmds l) hread]
    exact readStage_withHostCmds l s

end

/-! ## The command pins -/

theorem cycle_takes_command {p : PortIn} {s : State} (h : p.rst = false) (hs : s.stage = .idle)
    (hv : p.cmdValid = true) :
    cycle p s = exec (decode (.command p.cmdWord)) { s.drive { p with cmdValid := false } with done := false } := by
  rw [cycle_eq_agentStep s h, agentStep_idle (s.drive p).clearDone hs]
  exact idleStage_cmd _ p.cmdWord [] (by simp [State.drive, hv])

theorem cycle_waits {p : PortIn} {s : State} (h : p.rst = false) (hs : s.stage = .idle) (hv : p.cmdValid = false)
    (w : CmdWord) : cycle { p with cmdWord := w } s = .next { s.drive p with done := false } := by
  have hdrive : s.drive { p with cmdWord := w } = s.drive p := by simp only [State.drive, hv]; rfl
  rw [cycle_eq_agentStep (p := { p with cmdWord := w }) s h, hdrive, agentStep_idle (s.drive p).clearDone hs]
  exact idleStage_wait _ (by simp [State.drive, hv])

/-- In a busy cycle other command pins change the next state at most in the words left on the channel. -/
theorem cycle_of_command_pins {p : PortIn} {s : State} (h : p.rst = false) (hs : s.stage ≠ .idle) (v : Bool)
    (w : CmdWord) :
    ∃ l, cycle { p with cmdValid := v, cmdWord := w } s = mapNext (State.withHostCmds l) (cycle p s) := by
  refine ⟨if v then [w] else [], ?_⟩
  rw [cycle_eq_agentStep s h, cycle_eq_agentStep (p := { p with cmdValid := v, cmdWord := w }) s h]
  exact agentStep_withHostCmds _ (s.drive p).clearDone hs

/-- Settles O60: an idle cycle takes the word or waits, and a busy cycle ignores the command pins. -/
theorem commandIsTakenOnlyInAReadyCycle : Obligations.CommandIsTakenOnlyInAReadyCycle := by
  intro p s h
  refine ⟨cycle_takes_command h, fun hs hv w => cycle_waits h hs hv w, ?_⟩
  intro hs v w t u ht hu
  obtain ⟨l, hl⟩ := cycle_of_command_pins h hs v w
  rw [hu, ht] at hl
  cases hl
  rfl

end Sys2Proof.Machine
end

section
/-! Decoding and encoding agree (30_encoding.md R61, R62, R67). The encoder is a bijection from the
well-formed instructions onto the words of the two spaces, and the decoder is its inverse: decoding undoes
encoding row by row, and every word is the encoding of some well-formed instruction. -/

namespace Sys2Proof

/-! ## Decoding the encoding of each row -/

theorem decodeCommand_nop (a : Len) (d : Byte) : decodeCommand (packCommand 0 a d) = .nop a d := by
  simp [decodeCommand]

theorem decodeCommand_crcInit (a : Len) (d : Byte) : decodeCommand (packCommand 1 a d) = .crcInit a d := by
  simp [decodeCommand]

theorem decodeCommand_crcUpdate (a : Len) (d : Byte) : decodeCommand (packCommand 2 a d) = .crcUpdate a d := by
  simp [decodeCommand]

theorem decodeCommand_recv (a : Len) (d : Byte) : decodeCommand (packCommand 3 a d) = .recv a d := by
  simp [decodeCommand]

theorem decodeCommand_xmit (a : Len) (d : Byte) : decodeCommand (packCommand 4 a d) = .xmit a d := by
  simp [decodeCommand]

/-- Operation code 5: `a[8]` tells the reserved row from `BUF_WR`. -/
theorem decodeCommand_op5 (a8 : BitVec 1) (i d : Byte) :
    decodeCommand (packCommand 5 (packA a8 i) d) = if a8 = 1 then .reserved5Hi i d else .bufWr i d := by
  simp [decodeCommand]

/-- Operation code 6: `a[8]` tells the reserved row from `BUF_RD`. -/
theorem decodeCommand_op6 (a8 : BitVec 1) (i d : Byte) :
    decodeCommand (packCommand 6 (packA a8 i) d) = if a8 = 1 then .reserved6Hi i d else .bufRd i d := by
  simp [decodeCommand]

theorem decodeCommand_reserved7 (a : Len) (d : Byte) : decodeCommand (packCommand 7 a d) = .reserved7 a d := by
  simp [decodeCommand]

/-- A function byte without a row of its own has the default row. -/
theorem decodeFunction_of_not_named {fc : Byte} (h : fc ∉ namedFunctionBytes) : decodeFunction fc = .fcOther fc := by
  simp only [namedFunctionBytes, List.mem_cons, List.not_mem_nil, or_false, not_or] at h
  obtain ⟨h1, h2, h3, h4, h5, h6, h15, h16⟩ := h
  simp only [decodeFunction, h1, h2, h3, h4, h5, h6, h15, h16, if_false]

theorem fcOther_wf_iff (fc : Byte) : (Instr.fcOther fc).wf = true ↔ fc ∉ namedFunctionBytes := by
  simp [Instr.wf]

theorem decode_encode (i : Instr) (h : i.wf = true) : decode (encode i) = i := by
  cases i with
  | nop a d => exact decodeCommand_nop a d
  | crcInit a d => exact decodeCommand_crcInit a d
  | crcUpdate a d => exact decodeCommand_crcUpdate a d
  | recv a d => exact decodeCommand_recv a d
  | xmit a d => exact decodeCommand_xmit a d
  | bufWr i d => exact decodeCommand_op5 0 i d
  | bufRd i d => exact decodeCommand_op6 0 i d
  | reserved5Hi x d => exact decodeCommand_op5 1 x d
  | reserved6Hi x d => exact decodeCommand_op6 1 x d
  | reserved7 a d => exact decodeCommand_reserved7 a d
  | fcOther fc => exact decodeFunction_of_not_named ((fcOther_wf_iff fc).mp h)
  | fcReadCoils | fcReadDiscreteInputs | fcReadHoldingRegisters | fcReadInputRegisters | fcWriteSingleCoil
  | fcWriteSingleHoldingRegister | fcWriteMultipleCoils | fcWriteMultipleHoldingRegisters => rfl

/-- Settles O1: row by row, the decoder reads back what the encoder packed. -/
theorem decodingAnEncodedInstructionGivesItBack : Obligations.DecodingAnEncodedInstructionGivesItBack :=
  decode_encode

/-! ## Every word is an encoding -/

/-- A command word is the packing of its operation code, `a[8]`, index and data. -/
theorem eq_packCommand_packA (cw : CmdWord) :
    ∃ (op : BitVec 3) (a8 : BitVec 1) (i d : Byte), cw = packCommand op (packA a8 i) d :=
  ⟨cmdOp cw, if cmdA8 cw then 1 else 0, cmdIndex cw, cmdD cw, by rw [packA_fields, packCommand_fields]⟩

theorem exists_encode_eq_command (cw : CmdWord) : ∃ i : Instr, i.wf = true ∧ encode i = .command cw := by
  obtain ⟨op, a8, x, d, rfl⟩ := eq_packCommand_packA cw
  have ha8 : a8 = 0 ∨ a8 = 1 := by revert a8; decide
  rcases op_cases op with rfl | rfl | rfl | rfl | rfl | rfl | rfl | rfl
  · exact ⟨.nop (packA a8 x) d, rfl, rfl⟩
  · exact ⟨.crcInit (packA a8 x) d, rfl, rfl⟩
  · exact ⟨.crcUpdate (packA a8 x) d, rfl, rfl⟩
  · exact ⟨.recv (packA a8 x) d, rfl, rfl⟩
  · exact ⟨.xmit (packA a8 x) d, rfl, rfl⟩
  · rcases ha8 with rfl | rfl
    · exact ⟨.bufWr x d, rfl, rfl⟩
    · exact ⟨.reserved5Hi x d, rfl, rfl⟩
  · rcases ha8 with rfl | rfl
    · exact ⟨.bufRd x d, rfl, rfl⟩
    · exact ⟨.reserved6Hi x d, rfl, rfl⟩
  · exact ⟨.reserved7 (packA a8 x) d, rfl, rfl⟩

theorem exists_encode_eq_function (fc : Byte) : ∃ i : Instr, i.wf = true ∧ encode i = .function fc := by
  by_cases h : fc ∈ namedFunctionBytes
  · simp only [namedFunctionBytes, List.mem_cons, List.not_mem_nil, or_false] at h
    rcases h with rfl | rfl | rfl | rfl | rfl | rfl | rfl | rfl
    · exact ⟨.fcReadCoils, rfl, rfl⟩
    · exact ⟨.fcReadDiscreteInputs, rfl, rfl⟩
    · exact ⟨.fcReadHoldingRegisters, rfl, rfl⟩
    · exact ⟨.fcReadInputRegisters, rfl, rfl⟩
    · exact ⟨.fcWriteSingleCoil, rfl, rfl⟩
    · exact ⟨.fcWriteSingleHoldingRegister, rfl, rfl⟩
    · exact ⟨.fcWriteMultipleCoils, rfl, rfl⟩
    · exact ⟨.fcWriteMultipleHoldingRegisters, rfl, rfl⟩
  · exact ⟨.fcOther fc, (fcOther_wf_iff fc).mpr h, rfl⟩

/-- What a word decodes to is well formed and encodes to that word: it is the instruction whose encoding the
word is. -/
theorem encode_decode (w : CodeWord) : encode (decode w) = w ∧ (decode w).wf = true := by
  have hsurj : ∃ i : Instr, i.wf = true ∧ encode i = w := by
    cases w with
    | command cw => exact exists_encode_eq_command cw
    | function fc => exact exists_encode_eq_function fc
  obtain ⟨i, hwf, rfl⟩ := hsurj
  rw [decode_encode i hwf]
  exact ⟨rfl, hwf⟩

/-- Settles O2: every word is the encoding of a well-formed instruction, which decoding gives back. -/
theorem encodingADecodedWordGivesItBack : Obligations.EncodingADecodedWordGivesItBack := encode_decode

/-! ## The rows of the table (R62) -/

/-- An instruction's encoding matches its own row, whichever row that is. -/
theorem encode_matches_tableRow (i : Instr) : Laws.EncodesInItsRow.Statement i := by
  cases i with
  | nop a d => exact Laws.EncodesInItsRow.nop a d
  | crcInit a d => exact Laws.EncodesInItsRow.crcInit a d
  | crcUpdate a d => exact Laws.EncodesInItsRow.crcUpdate a d
  | recv a d => exact Laws.EncodesInItsRow.recv a d
  | xmit a d => exact Laws.EncodesInItsRow.xmit a d
  | bufWr i d => exact Laws.EncodesInItsRow.bufWr i d
  | bufRd i d => exact Laws.EncodesInItsRow.bufRd i d
  | reserved5Hi x d => exact Laws.EncodesInItsRow.reserved5Hi x d
  | reserved6Hi x d => exact Laws.EncodesInItsRow.reserved6Hi x d
  | reserved7 a d => exact Laws.EncodesInItsRow.reserved7 a d
  | fcReadCoils => exact Laws.EncodesInItsRow.fcReadCoils
  | fcReadDiscreteInputs => exact Laws.EncodesInItsRow.fcReadDiscreteInputs
  | fcReadHoldingRegisters => exact Laws.EncodesInItsRow.fcReadHoldingRegisters
  | fcReadInputRegisters => exact Laws.EncodesInItsRow.fcReadInputRegisters
  | fcWriteSingleCoil => exact Laws.EncodesInItsRow.fcWriteSingleCoil
  | fcWriteSingleHoldingRegister => exact Laws.EncodesInItsRow.fcWriteSingleHoldingRegister
  | fcWriteMultipleCoils => exact Laws.EncodesInItsRow.fcWriteMultipleCoils
  | fcWriteMultipleHoldingRegisters => exact Laws.EncodesInItsRow.fcWriteMultipleHoldingRegisters
  | fcOther fc => exact Laws.EncodesInItsRow.fcOther fc

theorem decode_matches_tableRow (w : CodeWord) : rowMatches (tableRow (decode w)) w = true := by
  obtain ⟨henc, hwf⟩ := encode_decode w
  calc rowMatches (tableRow (decode w)) w
      = rowMatches (tableRow (decode w)) (encode (decode w)) := by rw [henc]
    _ = true := encode_matches_tableRow (decode w) hwf

/-- No command row looks at the index or the data: its mask is 0xE0000 or 0xF0000. -/
theorem packCommand_and_mask {row : CmdWord × CmdWord} (h : row ∈ commandRows) (op : BitVec 3) (a8 : BitVec 1)
    (i d : Byte) : packCommand op (packA a8 i) d &&& row.2 = packCommand op (packA a8 0) 0 &&& row.2 := by
  have hall : (commandRows.all fun row => row.2 == 0xE0000 || row.2 == 0xF0000) = true := rfl
  have hmask : row.2 = 0xE0000 ∨ row.2 = 0xF0000 := by simpa using List.all_eq_true.mp hall row h
  rcases hmask with hk | hk <;> rw [hk]
  · rw [Laws.maskOp, Laws.maskOp]
  · rw [Laws.maskOpA8, Laws.maskOpA8]

/-- The rows a command word matches are those of its operation code and `a[8]`: sixteen words decide all. -/
theorem one_row_matches_command (cw : CmdWord) : (commandRows.filter fun row => cw &&& row.2 == row.1).length = 1 := by
  obtain ⟨op, a8, i, d, rfl⟩ := eq_packCommand_packA cw
  rw [List.filter_congr fun row hrow => by rw [packCommand_and_mask hrow op a8 i d]]
  revert op a8
  decide

/-- Settles O3: one row matches, and the row of the decoded instruction does. -/
theorem everyCommandWordMatchesExactlyOneRow : Obligations.EveryCommandWordMatchesExactlyOneRow :=
  fun cw => ⟨one_row_matches_command cw, decode_matches_tableRow (.command cw)⟩

/-! ## The words of the table as bytes (log 15) -/

/-- Three bytes, least significant first, hold the low 20 bits of a number. -/
theorem ofNat_eq_append_bytes (w : Nat) :
    (BitVec.ofNat 8 (w / 65536)).extractLsb' 0 4 ++ BitVec.ofNat 8 (w / 256) ++ BitVec.ofNat 8 w =
      BitVec.ofNat 20 w := by
  apply BitVec.eq_of_toNat_eq
  rw [BitVec.toNat_append, BitVec.toNat_append, ← Nat.shiftLeft_add_eq_or_of_lt (BitVec.isLt _),
    ← Nat.shiftLeft_add_eq_or_of_lt (BitVec.isLt _)]
  simp only [BitVec.extractLsb'_toNat, BitVec.toNat_ofNat, Nat.shiftLeft_eq, Nat.shiftRight_zero]
  omega

/-- The third byte of a 20-bit number has no bit above `CW[19]`. -/
theorem high_nibble_eq_zero {w : Nat} (h : w < 0x100000) : (BitVec.ofNat 8 (w / 65536)).extractLsb' 4 4 = 0 := by
  apply BitVec.eq_of_toNat_eq
  simp only [BitVec.extractLsb'_toNat, BitVec.ofNat_eq_ofNat, BitVec.toNat_ofNat, Nat.shiftRight_eq_div_pow]
  omega

theorem decodeTableWord_command {w : Nat} (h : w < 0x100000) :
    decodeTableWord 24 w = some (decode (.command (BitVec.ofNat 20 w))) := by
  rw [← ofNat_eq_append_bytes]
  simp [decodeTableWord, decodeBytes, high_nibble_eq_zero h, Except.toOption]

theorem decodeTableWord_function (w : Nat) :
    decodeTableWord 8 w = some (decode (.function (BitVec.ofNat 8 w))) := rfl

/-- Settles O4: each word, decoded. -/
theorem sampleWordsDecodeToTheirInstructions : Obligations.SampleWordsDecodeToTheirInstructions := by
  unfold Obligations.SampleWordsDecodeToTheirInstructions
  decide

end Sys2Proof
end

section
/-! The frame's shape, and the step that runs a decoded instruction (30_encoding.md R60, R66, R68;
41_rtu_receive.md R113; 43_host_access.md R163). -/

namespace Sys2Proof.Machine

/-! ## The frame's shape -/

theorem frameLen_fixed {fc : Byte} (l : Byte) (h : isVar fc = false) : frameLen fc l = 8 := by simp [frameLen, h]

theorem frameLen_variable {fc : Byte} (l : Byte) (h : isVar fc = true) : frameLen fc l = 9 + l.toNat := by
  simp [frameLen, h]

/-- Settles O5: the variable codes are two, and `is_var` is what `frame_len` tests. -/
theorem frameShapeIsChosenByTheFunctionCode : Obligations.FrameShapeIsChosenByTheFunctionCode :=
  ⟨isVar_eq, ⟨rfl, rfl⟩, fun _ l => ⟨frameLen_fixed l, frameLen_variable l⟩⟩

/-! ## The step that runs a command word -/

/-- Settles O6: the host's move in `IDLE`. -/
theorem stepRunsTheDecodedCommand : Obligations.StepRunsTheDecodedCommand := by
  intro s cw rest hq hs hc
  rw [step_undisturbed s hq, agentStep_idle s.clearDone hs]
  exact idleStage_cmd s.clearDone cw rest hc

/-- A command word presented to an idle block is the one the next step runs. -/
theorem step_presentCommand (cw : CmdWord) (s : State) :
    step (presentCommand cw s) =
      exec (decode (.command cw)) { s with stage := .idle, done := false, env := { s.env with signals := [] } } :=
  stepRunsTheDecodedCommand (presentCommand cw s) cw s.env.hostCmds rfl rfl rfl

/-! ## The step that runs a function byte -/

/-- A read stage that has its bytes goes on to the end of the stage (log 6). -/
theorem readStage_complete (s : State) (h : s.rem = 0) : readStage s = endOfRead s := if_pos h

/-- With `RX_PREFIX` at its end and `BUF[1]` written, what is left to do is to run the function byte. -/
theorem endOfRead_runs_functionByte {s : State} {fc : Byte} (hs : s.stage = .rxPrefix) (hf : s.byteAt 1 = some fc) :
    endOfRead s = exec (decode (.function fc)) s :=
  (endOfRead_prefix s fc hs hf).trans (exec_decodeFunction fc s).symm

theorem byteAt_presentFunctionByte (fc : Byte) (s : State) : (presentFunctionByte fc s).byteAt 1 = some fc :=
  byteAt_writeByte_same s 1 fc

/-- A function byte placed in a frame whose first six bytes are in is the one the next step runs. -/
theorem step_presentFunctionByte (fc : Byte) (s : State) :
    step (presentFunctionByte fc s) = exec (decode (.function fc)) { presentFunctionByte fc s with done := false } := by
  rw [step_undisturbed _ rfl, agentStep_read _ rfl, readStage_complete _ rfl]
  exact endOfRead_runs_functionByte rfl (byteAt_presentFunctionByte fc s)

/-! ## The model's interface (log 7) -/

theorem withFetchWord_command (s : State) {w : Nat} (h : w < 0x100000) :
    s.withFetchWord 24 w = presentCommand (BitVec.ofNat 20 w) s := if_pos h

theorem withFetchWord_function (s : State) (w : Nat) :
    s.withFetchWord 8 w = presentFunctionByte (BitVec.ofNat 8 w) s := rfl

/-- Settles O8: the word that is decoded is the word that is placed, in either space. -/
theorem fetchWordIsRunByTheNextStep : Obligations.FetchWordIsRunByTheNextStep := by
  constructor
  · intro s w hw
    refine ⟨_, decodeTableWord_command hw, ?_⟩
    rw [withFetchWord_command s hw]
    exact step_presentCommand _ s
  · intro s w _
    refine ⟨_, decodeTableWord_function w, ?_⟩
    rw [withFetchWord_function]
    exact step_presentFunctionByte _ s

end Sys2Proof.Machine
end

section
/-! The CRC engine's functions (40_crc_engine.md R90 to R93, R97 to R99). What the proofs turn on: a bit step
puts bit 0 into bit 15, so the bits that `n` steps shift out are the top `n` bits of what they leave. -/

namespace Sys2Proof.Machine

/-! ## One step and `n` steps (R90) -/

theorem crcBit_of_bit0_set {c : Half} (h : c.getLsbD 0 = true) : crcBit c = (c >>> 1) ^^^ Config.poly := if_pos h

theorem crcBit_of_bit0_clear {c : Half} (h : c.getLsbD 0 = false) : crcBit c = c >>> 1 :=
  if_neg (Bool.eq_false_iff.mp h)

/-- Settles O9: the two cases of a step, and the bits of a logical right shift. -/
theorem crcBitShiftsRightAndFoldsThePolynomial : Obligations.CrcBitShiftsRightAndFoldsThePolynomial := fun c =>
  ⟨crcBit_of_bit0_set, crcBit_of_bit0_clear, by simp, fun i _ => by
    rw [BitVec.getLsbD_ushiftRight, Nat.add_comm]⟩

/-- The polynomial has bit 15, the shifted value has not. -/
theorem crcBit_bit15 (c : Half) : (crcBit c).getLsbD 15 = c.getLsbD 0 := by
  cases h : c.getLsbD 0 with
  | true => rw [crcBit_of_bit0_set h]; simp [Config.poly]
  | false => rw [crcBit_of_bit0_clear h]; simp

theorem crcBits_succ (n : Nat) (c : Half) : crcBits (n + 1) c = crcBit (crcBits n c) := by
  induction n generalizing c with
  | zero => rfl
  | succ n ih => exact ih (crcBit c)

/-- Steps that shift out zeros only are a shift. -/
theorem crcBits_of_low_zero {n : Nat} {c : Half} (h : ∀ i < n, c.getLsbD i = false) : crcBits n c = c >>> n := by
  induction n with
  | zero => rfl
  | succ n ih =>
    have hbit : (c >>> n).getLsbD 0 = false := by simpa using h n n.lt_succ_self
    rw [crcBits_succ, ih fun i hi => h i (by omega), crcBit_of_bit0_clear hbit, BitVec.shiftRight_add]

/-- If `n` steps leave zeros in the top `n` bits, they shifted out zeros only. -/
theorem low_zero_of_crcBits_top_zero {n : Nat} {c : Half} (hn : n ≤ 16)
    (h : ∀ i < n, (crcBits n c).getLsbD (15 - i) = false) : ∀ i < n, c.getLsbD i = false := by
  induction n with
  | zero => exact fun i hi => absurd hi i.not_lt_zero
  | succ n ih =>
    have hbit : (crcBits n c).getLsbD 0 = false := by
      rw [← crcBit_bit15, ← crcBits_succ]; exact h 0 n.succ_pos
    have hlow : ∀ i < n, c.getLsbD i = false := ih (by omega) fun i hi => by
      have htop := h (i + 1) (by omega)
      rw [crcBits_succ, crcBit_of_bit0_clear hbit, BitVec.getLsbD_ushiftRight] at htop
      rwa [show 1 + (15 - (i + 1)) = 15 - i by omega] at htop
    intro i hi
    rcases Nat.lt_succ_iff_lt_or_eq.mp hi with hlt | rfl
    · exact hlow i hlt
    · simpa [crcBits_of_low_zero hlow] using hbit

theorem crcBit_eq_zero {c : Half} (h : crcBit c = 0) : c = 0 := by
  have hbit : c.getLsbD 0 = false := by rw [← crcBit_bit15, h]; rfl
  rw [crcBit_of_bit0_clear hbit] at h
  refine BitVec.eq_of_getLsbD_eq fun i _ => ?_
  cases i with
  | zero => exact hbit
  | succ i => simpa [Nat.add_comm] using congrArg (BitVec.getLsbD · i) h

theorem crcBit_injective : Function.Injective crcBit := fun x y (h : crcBit x = crcBit y) =>
  BitVec.xor_eq_zero_iff.mp (crcBit_eq_zero ((crcBit_xor x y).trans (BitVec.xor_eq_zero_iff.mpr h)))

theorem crcBits_injective (n : Nat) : Function.Injective (crcBits n) := by
  induction n with
  | zero => exact fun _ _ h => h
  | succ n ih => exact ih.comp crcBit_injective

/-! ## The update (R91, R95, R98) -/

theorem crcUpdate_injective (b : Byte) : Function.Injective (crcUpdate · b) := fun _ _ h =>
  (BitVec.xor_left_inj _).mp (crcBits_injective _ h)

/-- The update tells any two bytes apart. -/
theorem crcUpdate_byte_injective (c : Half) : Function.Injective (crcUpdate c) := fun x y h => by
  have hw : x.setWidth 16 = y.setWidth 16 := (BitVec.xor_right_inj c).mp (crcBits_injective _ h)
  simpa using congrArg (BitVec.setWidth 8) hw

/-- Settles O16: both are injective, on a finite type. -/
theorem crcUpdateIsABijectionOfTheRegister : Obligations.CrcUpdateIsABijectionOfTheRegister :=
  have : Finite Half := .of_equiv _ BitVec.equivFin.symm.toEquiv
  ⟨Finite.injective_iff_bijective.mp crcBit_injective,
    fun b => Finite.injective_iff_bijective.mp (crcUpdate_injective b)⟩

theorem crcUpdate_zero_zero : crcUpdate 0 0 = 0 := rfl

/-- Refutes O17: 0xC001 is a fixed point of the byte 0x00. -/
theorem not_zeroByteChangesEveryNonzeroCrc : ¬ Obligations.ZeroByteChangesEveryNonzeroCrc := fun h =>
  h 0xC001 (by decide) (by decide)

/-! ## The bytes of the register -/

theorem getLsbD_lo8 (c : Half) {i : Nat} (h : i < 8) : (lo8 c).getLsbD i = c.getLsbD i := by simp [lo8, h]

theorem getLsbD_hi8 (c : Half) {i : Nat} (h : i < 8) : (hi8 c).getLsbD i = c.getLsbD (8 + i) := by simp [hi8, h]

theorem hi8_xor (x y : Half) : hi8 (x ^^^ y) = hi8 x ^^^ hi8 y := BitVec.extractLsb'_xor

@[simp] theorem hi8_setWidth (b : Byte) : hi8 (b.setWidth 16) = 0 :=
  BitVec.eq_of_getLsbD_eq fun i hi => by simp [getLsbD_hi8 _ hi]

theorem setWidth_hi8 (c : Half) : (hi8 c).setWidth 16 = c >>> 8 := by
  apply BitVec.eq_of_toNat_eq
  simp [hi8, Nat.shiftRight_eq_div_pow]; omega

/-- The low byte folded into its own register leaves no low byte. -/
theorem getLsbD_xor_lo8 (c : Half) {i : Nat} (h : i < 8) : (c ^^^ (lo8 c).setWidth 16).getLsbD i = false := by
  rw [BitVec.getLsbD_xor, BitVec.getLsbD_setWidth, getLsbD_lo8 c h]
  simp; omega

/-- The register shifted by a byte does not depend on what was folded into its low byte. -/
theorem xor_byte_ushiftRight (c : Half) (b : Byte) : (c ^^^ b.setWidth 16) >>> 8 = c >>> 8 := by
  simp [← setWidth_hi8, hi8_xor]

/-- Folding the register's own low byte shifts it out. -/
theorem crcUpdate_lo8 (c : Half) : crcUpdate c (lo8 c) = (hi8 c).setWidth 16 := by
  rw [setWidth_hi8, ← xor_byte_ushiftRight c (lo8 c)]
  exact crcBits_of_low_zero fun i hi => getLsbD_xor_lo8 c hi

/-- Only the register's own low byte leaves nothing in the high byte. -/
theorem eq_lo8_of_hi8_crcUpdate_eq_zero {c : Half} {b : Byte} (h : hi8 (crcUpdate c b) = 0) : b = lo8 c := by
  have htop : ∀ i < 8, (crcUpdate c b).getLsbD (15 - i) = false := fun i hi => by
    rw [show 15 - i = 8 + (7 - i) by omega, ← getLsbD_hi8 _ (by omega), h]
    simp
  have hlow := low_zero_of_crcBits_top_zero (n := 8) (by decide) htop
  refine BitVec.eq_of_getLsbD_eq fun i hi => ?_
  rw [getLsbD_lo8 c hi]
  have hbit := hlow i hi
  rw [BitVec.getLsbD_xor, bne_eq_false_iff_eq, BitVec.getLsbD_setWidth] at hbit
  simpa [show i < 16 by omega] using hbit.symm

/-! ## The byte form and the table form (R91, R92) -/

theorem crcTable_eq (i : Byte) : crcTable i = crcUpdate 0 i := by simp [crcTable, crcUpdate]

/-- Settles O10: eight steps by unfolding the count; the zero-extended byte has no high byte. -/
theorem crcUpdateIsEightBitSteps : Obligations.CrcUpdateIsEightBitSteps :=
  ⟨fun c b => ⟨rfl, by rw [hi8_xor, hi8_setWidth]; exact BitVec.xor_zero⟩, by decide⟩

theorem crcUpdate_eq_update_with_zero (c : Half) (b : Byte) : crcUpdate c b = crcUpdate (c ^^^ b.setWidth 16) 0 := by
  simp [crcUpdate]

/-- By linearity: the low byte goes through the table, the rest is shifted. -/
theorem crcUpdate_with_zero_eq (w : Half) : crcUpdate w 0 = (w >>> 8) ^^^ crcTable (lo8 w) := by
  calc crcUpdate w 0
    _ = crcUpdate (w ^^^ 0) (lo8 w ^^^ lo8 w) := by simp
    _ = crcUpdate w (lo8 w) ^^^ crcUpdate 0 (lo8 w) := crcUpdate_xor w 0 _ _
    _ = (w >>> 8) ^^^ crcTable (lo8 w) := by rw [crcUpdate_lo8, setWidth_hi8, crcTable_eq]

theorem crcUpdate_eq_crcUpdateByTable (c : Half) (b : Byte) : crcUpdate c b = crcUpdateByTable c b := by
  rw [crcUpdate_eq_update_with_zero, crcUpdate_with_zero_eq, xor_byte_ushiftRight]
  rfl

/-- Two entries with one high byte differ by an entry without one, which is that of index 0. -/
theorem hi8_crcTable_injective : Function.Injective fun i : Byte => hi8 (crcTable i) := fun i j h => by
  have hdiff : crcUpdate 0 (i ^^^ j) = crcTable i ^^^ crcTable j := by
    rw [crcTable_eq, crcTable_eq]; exact crcUpdate_xor 0 0 i j
  have hhi : hi8 (crcUpdate 0 (i ^^^ j)) = 0 := by
    rw [hdiff, hi8_xor]; exact BitVec.xor_eq_zero_iff.mpr h
  exact BitVec.xor_eq_zero_iff.mp (eq_lo8_of_hi8_crcUpdate_eq_zero hhi)

/-- Settles O11: the table form by linearity, the entries by evaluation. -/
theorem crcTableFormEqualsTheBitForm : Obligations.CrcTableFormEqualsTheBitForm :=
  ⟨crcUpdate_eq_crcUpdateByTable, rfl, rfl, rfl, hi8_crcTable_injective⟩

/-! ## The fold (R93) -/

theorem crc16_append (u v : List Byte) : crc16 (u ++ v) = crcFold (crc16 u) v := crcFold_append _ u v

/-- Settles O12: the fold over a concatenation. -/
theorem crc16IsTheIncrementalFold : Obligations.Crc16IsTheIncrementalFold := ⟨rfl, crc16_concat, crc16_append⟩

theorem crcFold_injective (u : List Byte) : Function.Injective (crcFold · u) := by
  induction u with
  | nil => exact fun _ _ h => h
  | cons b u ih => exact ih.comp (crcUpdate_injective b)

theorem crcFold_zero_replicate (n : Nat) : crcFold 0 (List.replicate n 0) = 0 := by
  induction n with
  | zero => rfl
  | succ n ih => rw [List.replicate_succ, crcFold_cons, crcUpdate_zero_zero, ih]

/-- The fold is linear in the register and a byte sequence of one length together. -/
theorem crcFold_xor {u v : List Byte} (h : u.length = v.length) (c e : Half) :
    crcFold (c ^^^ e) (List.zipWith (· ^^^ ·) u v) = crcFold c u ^^^ crcFold e v := by
  induction u generalizing v c e with
  | nil => simp [List.length_eq_zero_iff.mp h.symm]
  | cons b u ih =>
    obtain ⟨x, v, rfl⟩ := List.exists_cons_of_length_eq_add_one h.symm
    rw [List.zipWith_cons_cons, crcFold_cons, crcUpdate_xor, ih (by simpa using h), crcFold_cons, crcFold_cons]

/-! ## The residue law and its converse (R97, R98) -/

/-- The register after the first byte holds the second one exactly when the two are its own, low byte first. -/
theorem crcUpdate_eq_setWidth_iff (c : Half) (x y : Byte) :
    crcUpdate c x = y.setWidth 16 ↔ x = lo8 c ∧ y = hi8 c := by
  constructor
  · intro h
    obtain rfl : x = lo8 c := eq_lo8_of_hi8_crcUpdate_eq_zero (by rw [h, hi8_setWidth])
    rw [crcUpdate_lo8] at h
    exact ⟨rfl, by simpa using congrArg (BitVec.setWidth 8) h.symm⟩
  · rintro ⟨rfl, rfl⟩
    exact crcUpdate_lo8 c

theorem crcUpdate_eq_zero_iff (c : Half) (b : Byte) : crcUpdate c b = 0 ↔ c = b.setWidth 16 := by
  have hzero : crcUpdate (b.setWidth 16) b = 0 := by
    unfold crcUpdate; rw [BitVec.xor_self]; exact crcBits_zero _
  rw [← hzero]
  exact (crcUpdate_injective b).eq_iff

theorem crcUpdate_twice_eq_zero_iff (c : Half) (x y : Byte) :
    crcUpdate (crcUpdate c x) y = 0 ↔ x = lo8 c ∧ y = hi8 c := by
  rw [crcUpdate_eq_zero_iff, crcUpdate_eq_setWidth_iff]

theorem crc16_append_pair_eq_zero_iff (u : List Byte) (x y : Byte) :
    crc16 (u ++ [x, y]) = 0 ↔ [x, y] = le16 (crc16 u) := by
  rw [crc16_append]
  simpa [le16] using crcUpdate_twice_eq_zero_iff (crc16 u) x y

/-- Settles O14: the update is injective, so the last byte is what the register holds before it. -/
theorem residueZeroOnlyForTheFramesOwnCrc : Obligations.ResidueZeroOnlyForTheFramesOwnCrc :=
  ⟨crcUpdate_twice_eq_zero_iff, crc16_append_pair_eq_zero_iff⟩

/-- Settles O13: the two bytes of the register are those the converse asks for. -/
theorem appendingTheCrcLeavesResidueZero : Obligations.AppendingTheCrcLeavesResidueZero :=
  ⟨fun u => (crc16_append_pair_eq_zero_iff u _ _).mpr rfl,
    fun c => (crcUpdate_twice_eq_zero_iff c _ _).mpr ⟨rfl, rfl⟩⟩

/-! ## One changed byte (R99) -/

/-- The update tells the two bytes apart, and what follows keeps the registers apart. -/
theorem crcFold_ne_of_one_byte {x y : Byte} (h : x ≠ y) (c : Half) (u w : List Byte) :
    crcFold c (u ++ [x] ++ w) ≠ crcFold c (u ++ [y] ++ w) := by
  simp only [crcFold_append, crcFold_cons, crcFold_nil]
  exact (crcFold_injective w).ne ((crcUpdate_byte_injective _).ne h)

theorem one_shiftLeft_ne_zero {j : Nat} (h : j < 8) : (1 : Byte) <<< j ≠ 0 := fun h0 => by
  simpa [h] using congrArg (BitVec.getLsbD · j) h0

theorem crc16_eq_xor_crcFold_difference {u v : List Byte} (h : u.length = v.length) :
    crc16 v = crc16 u ^^^ crcFold 0 (List.zipWith (· ^^^ ·) u v) := by
  have hdiff : crcFold 0 (List.zipWith (· ^^^ ·) u v) = crc16 u ^^^ crc16 v :=
    crcFold_xor h Config.crcSeed Config.crcSeed
  rw [hdiff, ← BitVec.xor_assoc, BitVec.xor_self, BitVec.zero_xor]

/-- Settles O15: linearity, and one changed byte, against a zero byte and against the frame's own. -/
theorem singleBitFlipFailsTheCrcCheck : Obligations.SingleBitFlipFailsTheCrcCheck := by
  refine ⟨fun _ _ => crc16_eq_xor_crcFold_difference, fun n m j hj => ?_, fun u w b j hj hpass => ?_⟩
  · have hzero : crcFold 0 (List.replicate n 0 ++ [0] ++ List.replicate m 0) = 0 := by
      rw [crcFold_append, crcFold_append, crcFold_zero_replicate]
      exact crcFold_zero_replicate m
    exact fun h => crcFold_ne_of_one_byte (one_shiftLeft_ne_zero hj) 0 _ _ (h.trans hzero.symm)
  · have hflip : b ^^^ (1 : Byte) <<< j ≠ b := fun h =>
      one_shiftLeft_ne_zero hj ((BitVec.xor_right_inj b).mp (h.trans BitVec.xor_zero.symm))
    rw [← hpass]
    exact crcFold_ne_of_one_byte hflip Config.crcSeed u w

end Sys2Proof.Machine
end

section
/-! The two commands of the CRC engine, and the frame of the commands that store nothing (40_crc_engine.md
R94, R95; 41_rtu_receive.md R110; 42_rtu_transmit.md R140; 43_host_access.md R160, R162, R164). -/

namespace Sys2Proof.Machine

theorem exec_crcInit_idle (a : Len) (d : Byte) {s : State} (h : s.stage = .idle) :
    exec (.crcInit a d) s = .next { s with crc := 0xFFFF } := whenIdle_idle s _ h

theorem exec_crcUpdate_idle (a : Len) (d : Byte) {s : State} (h : s.stage = .idle) :
    exec (.crcUpdate a d) s = .next { s with crc := crcUpdate s.crc d } := whenIdle_idle s _ h

/-- Settles O19: after the command, and after reset, `CRC` holds the seed already. -/
theorem crcInitLoadsTheSeed : Obligations.CrcInitLoadsTheSeed :=
  ⟨decodeCommand_crcInit, fun a d s h =>
    ⟨exec_crcInit_idle a d h, exec_crcInit_idle a d (s := { s with crc := 0xFFFF }) h,
      exec_crcInit_idle a d (s := State.reset) rfl⟩⟩

/-- Settles O20: the effect in `IDLE`, and the worked values by evaluation. -/
theorem crcUpdateFoldsOneByte : Obligations.CrcUpdateFoldsOneByte :=
  ⟨decodeCommand_crcUpdate, fun a d _ h => exec_crcUpdate_idle a d h, rfl, rfl, rfl⟩

/-- A command other than `op` 5 changes nothing, or writes what the rule of its `op` says. -/
theorem nonStoringCommand_next {s t : State} {cw : CmdWord} (h : exec (decodeCommand cw) s = .next t)
    (h5 : cmdOp cw ≠ 5) :
    t = s ∨
    ((cmdOp cw = 1 ∨ cmdOp cw = 2) ∧ ∃ c, t = { s with crc := c }) ∨
    (cmdOp cw = 3 ∧ t = recvStarted (cmdD cw) s) ∨
    (cmdOp cw = 4 ∧ ∃ c i g st dn, t = { s with
      sid := cmdD cw, txlen := cmdA cw, crc := c, idx := i, stage := g, status := st, done := dn }) ∨
    (cmdOp cw = 6 ∧ ∃ r n, t = { s with bufRdata := r, draws := n }) := by
  have kept : ∀ u : State, whenIdle s (.next u) = .next t → t = u := fun u hu => by
    cases (whenIdle_next s t _ hu).2; rfl
  have hcw := packCommand_fields cw
  rcases op_cases (cmdOp cw) with hop | hop | hop | hop | hop | hop | hop | hop
  · rw [← hcw, hop, decodeCommand_nop] at h
    exact .inl (kept _ h)
  · rw [← hcw, hop, decodeCommand_crcInit] at h
    exact .inr (.inl ⟨.inl hop, _, kept _ h⟩)
  · rw [← hcw, hop, decodeCommand_crcUpdate] at h
    exact .inr (.inl ⟨.inr hop, _, kept _ h⟩)
  · rw [← hcw, hop, decodeCommand_recv] at h
    exact .inr (.inr (.inl ⟨hop, kept _ h⟩))
  · rw [← hcw, hop, decodeCommand_xmit] at h
    replace h : execXmit (cmdA cw) (cmdD cw) s = .next t := h
    have hs : s.stage = .idle := (whenIdle_next s t _ h).1
    by_cases ha : (cmdA cw).toNat ≤ 254
    · rw [execXmit_fits _ _ hs ha] at h
      cases h
      exact .inr (.inr (.inr (.inl ⟨hop, _, _, _, _, _, rfl⟩)))
    · rw [execXmit_tooLong _ _ hs (by omega)] at h
      cases h
      exact .inr (.inr (.inr (.inl ⟨hop, _, _, _, _, _, rfl⟩)))
  · exact absurd hop h5
  · rw [← hcw, hop, ← packA_fields, decodeCommand_op6] at h
    split at h
    · exact .inl (kept _ h)
    · obtain ⟨n, hn⟩ := readByte_state s (cmdIndex cw)
      exact .inr (.inr (.inr (.inr ⟨hop, _, n, by rw [kept _ h, hn]⟩)))
  · rw [← hcw, hop, decodeCommand_reserved7] at h
    exact .inl (kept _ h)

/-- Settles O27: by what the command writes; a clause that does not exempt its `op` names nothing it writes. -/
theorem commandsThatStoreNothingKeepTheBuffer : Obligations.CommandsThatStoreNothingKeepTheBuffer := by
  intro cw s t h h5
  rcases nonStoringCommand_next h h5 with
    rfl | ⟨hop, c, rfl⟩ | ⟨hop, rfl⟩ | ⟨hop, c, i, g, st, dn, rfl⟩ | ⟨hop, r, n, rfl⟩
  · exact ⟨fun _ => rfl, rfl, rfl, fun _ _ _ _ => rfl, fun _ _ => ⟨rfl, rfl, rfl, rfl, rfl⟩,
      fun _ => ⟨rfl, rfl⟩, fun _ => rfl, fun _ => ⟨rfl, rfl⟩⟩
  · exact ⟨fun _ => rfl, rfl, rfl, fun h1 h2 _ _ => (hop.elim h1 h2).elim,
      fun _ _ => ⟨rfl, rfl, rfl, rfl, rfl⟩, fun _ => ⟨rfl, rfl⟩, fun _ => rfl, fun _ => ⟨rfl, rfl⟩⟩
  · exact ⟨fun _ => rfl, rfl, rfl, fun _ _ h3 _ => absurd hop h3, fun h3 _ => absurd hop h3,
      fun h3 => absurd hop h3, fun _ => rfl, fun _ => ⟨rfl, rfl⟩⟩
  · exact ⟨fun _ => rfl, rfl, rfl, fun _ _ _ h4 => absurd hop h4, fun _ h4 => absurd hop h4,
      fun _ => ⟨rfl, rfl⟩, fun h4 => absurd hop h4, fun _ => ⟨rfl, rfl⟩⟩
  · exact ⟨fun _ => rfl, rfl, rfl, fun _ _ _ _ => rfl, fun _ _ => ⟨rfl, rfl, rfl, rfl, rfl⟩,
      fun _ => ⟨rfl, rfl⟩, fun _ => rfl, fun h6 => absurd hop h6⟩

end Sys2Proof.Machine
end

section
/-! The receive side, step by step (41_rtu_receive.md R110 to R119; 70_reset_and_hazards.md R246): what each
agent's move answers in a read stage, at the checks and in the silence interval. -/

namespace Sys2Proof.Machine

/-! ## `RECV` and the function bytes -/

/-- Settles O21: the row `op` 3, and the effect in `IDLE`, which no level outside enters into. -/
theorem recvStartsAReceive : Obligations.RecvStartsAReceive :=
  ⟨decodeCommand_recv, fun a d _ h => execRecv_idle a d h⟩

section
variable {fc : Byte} {s : State}

/-- A variable function byte asks for the length byte. -/
theorem endPrefix_variable (hs : s.stage = .rxPrefix) (hr : s.rem = 0) (hv : isVar fc = true) :
    endPrefix fc s = .next { s with rem := 1, stage := .rxLen } := by
  rw [endPrefix_due fc s hs hr, if_pos hv]

/-- A fixed function byte asks for the two CRC bytes. -/
theorem endPrefix_fixed (hs : s.stage = .rxPrefix) (hr : s.rem = 0) (hv : isVar fc = false) :
    endPrefix fc s = .next { s with rem := 2, stage := .rxTail } := by
  rw [endPrefix_due fc s hs hr, if_neg (by simp [hv])]

end

theorem isVar_of_not_named {fc : Byte} (h : fc ∉ namedFunctionBytes) : isVar fc = false :=
  Bool.eq_false_iff.mpr fun hv => h (by rcases (isVar_eq fc).mp hv with rfl | rfl <;> decide)

/-- Settles O28: each row runs `endPrefix` on its own byte, and `is_var` of that byte decides. -/
theorem functionBytesChooseTheNextRead : Obligations.FunctionBytesChooseTheNextRead := fun _ hs hr =>
  ⟨⟨endPrefix_variable hs hr rfl, endPrefix_variable hs hr rfl⟩, endPrefix_fixed hs hr rfl,
    endPrefix_fixed hs hr rfl, endPrefix_fixed hs hr rfl, endPrefix_fixed hs hr rfl, endPrefix_fixed hs hr rfl,
    endPrefix_fixed hs hr rfl,
    fun fc hwf => endPrefix_fixed hs hr (isVar_of_not_named ((fcOther_wf_iff fc).mp hwf))⟩

/-- Settles O29: whatever its row, a function byte is due when `RX_PREFIX` has ended, and then it sets `REM`
and `STAGE`. -/
theorem functionBytesActOnlyAtTheEndOfAPrefix : Obligations.FunctionBytesActOnlyAtTheEndOfAPrefix := by
  intro fc s
  have hexec : exec (decode (.function fc)) s = endPrefix fc s := exec_decodeFunction fc s
  rw [hexec]
  refine ⟨fun t ht => ?_, endPrefix_not_due fc s⟩
  by_cases hdue : s.stage = .rxPrefix ∧ s.rem = 0
  · obtain ⟨hs, hr⟩ := hdue
    cases hv : isVar fc
    · rw [endPrefix_fixed hs hr hv] at ht
      cases ht
      exact ⟨hs, hr, rfl, fun _ => rfl⟩
    · rw [endPrefix_variable hs hr hv] at ht
      cases ht
      exact ⟨hs, hr, rfl, fun _ => rfl⟩
  · rw [endPrefix_not_due fc s (by tauto)] at ht
    cases ht

/-! ## The transport's answers -/

section
variable {s : State} {rest : List RxAnswer}

theorem step_takes_byte {b : Byte} (hq : s.Undisturbed) (hs : s.stage.isRead = true) (hr : s.rem ≠ 0)
    (hl : s.env.rxLine = .byte b :: rest) : step s = rxByte b (s.clearDone.withRxLine rest) := by
  rw [step_undisturbed s hq, agentStep_read s.clearDone hs]
  exact readStage_byte s.clearDone b rest hr hl

theorem step_takes_readFailure (hq : s.Undisturbed) (hs : s.stage.isRead = true) (hr : s.rem ≠ 0)
    (hl : s.env.rxLine = .fail :: rest) : step s = .next ((s.clearDone.withRxLine rest).fail .failRead) := by
  rw [step_undisturbed s hq, agentStep_read s.clearDone hs]
  exact readStage_fail s.clearDone rest hr hl

/-- The byte that is still wanted in a stage with `REM` at 1 runs the end of the stage. -/
theorem step_takes_last_byte {b : Byte} (hq : s.Undisturbed) (hs : s.stage.isRead = true) (hr : s.rem = 1)
    (hl : s.env.rxLine = .byte b :: rest) : step s = rxByte b (s.clearDone.withRxLine rest) :=
  step_takes_byte hq hs (by rw [hr]; decide) hl

end

/-- Settles O7: the stage ends with the byte, on the state after the byte is stored and folded. -/
theorem stepRunsTheFunctionByte : Obligations.StepRunsTheFunctionByte := by
  intro s b fc rest hq hs hr hl hfc
  rw [step_takes_last_byte hq (by rw [hs]; rfl) hr hl,
    rxByte_prefix b fc (s.clearDone.withRxLine rest) hs hr hfc]
  exact (exec_decodeFunction fc _).symm

/-- Settles O30: `takeByte` is the whole step. -/
theorem deliveredByteIsStoredAndFolded : Obligations.DeliveredByteIsStoredAndFolded := by
  intro s b rest hq hs hr hl
  have h0 : s.rem ≠ 0 := fun h => by simp [h] at hr
  have h1 : s.rem ≠ 1 := fun h => by simp [h] at hr
  refine ⟨takeByte b (s.clearDone.withRxLine rest), ?_, rfl, byteAt_takeByte_same _ b, byteAt_takeByte_other _ b⟩
  rw [step_takes_byte hq hs h0 hl]
  exact rxByte_more b (s.clearDone.withRxLine rest) h1

/-- Settles O31: by stage; the length byte is the byte just delivered. -/
theorem lastByteEndsTheReadStage : Obligations.LastByteEndsTheReadStage := by
  rintro s u b rest hq hr hl rfl
  have hlast : s.stage.isRead = true → step s = rxByte b (s.clearDone.withRxLine rest) :=
    fun hs => step_takes_last_byte hq hs hr hl
  have hdue : (takeByte b (s.clearDone.withRxLine rest)).rem = 0 := by
    rw [takeByte_rem, withRxLine_rem, clearDone_rem, hr]; rfl
  refine ⟨fun fc hs hfc => ?_, fun hs => ?_, fun hs => ?_⟩
  · rw [hlast (by rw [hs]; rfl), rxByte_prefix b fc (s.clearDone.withRxLine rest) hs hr hfc]
    exact ⟨endPrefix_variable hs hdue, endPrefix_fixed hs hdue⟩
  · rw [hlast (by rw [hs]; rfl), rxByte_length b (s.clearDone.withRxLine rest) hs hr]
    exact ⟨fun hlong => congrArg Host.Outcome.next (endLength_long b _ (by omega)),
      fun hshort => congrArg Host.Outcome.next (endLength_short b _ (by omega))⟩
  · rw [hlast (by rw [hs]; rfl)]
    exact rxByte_tail b (s.clearDone.withRxLine rest) hs hr

/-- Settles O32: the failure is the answer to the request, whatever the read stage. -/
theorem readFailureEndsTheReceive : Obligations.ReadFailureEndsTheReceive := by
  intro s rest hq hs hr hl
  have h0 : s.rem ≠ 0 := fun h => by simp [h] at hr
  exact step_takes_readFailure hq hs h0 hl

/-! ## The checks and the silence interval -/

section
variable {s : State}

theorem step_rxCheck (hq : s.Undisturbed) (hs : s.stage = .rxCheck) : step s = .next (checkFrame s.clearDone) := by
  rw [step_undisturbed s hq, agentStep_rxCheck s.clearDone hs]

theorem completeOk_of_receive (hs : s.stage = .rxCheck ∨ s.stage = .rxSilence) :
    s.completeOk = { s with status := .ok, rxlen := s.idx - 2, stage := .idle, done := true } := by
  unfold State.completeOk
  rw [if_pos hs]

theorem step_takes_tick {n : Nat} (hq : s.Undisturbed) (hs : s.stage = .rxSilence) (hn : s.env.ticks = n + 1) :
    step s = .next (tick (s.clearDone.withTicks n)) := by
  rw [step_undisturbed s hq, agentStep_rxSilence s.clearDone hs]
  exact silenceStage_tick s.clearDone n hn

end

/-- Settles O33: one clause for each way out of `checkFrame`. -/
theorem checksRunInOrder : Obligations.ChecksRunInOrder := by
  intro s b hq hs hb
  rw [step_rxCheck hq hs]
  have hpass (hc : s.crc = 0) (ha : b = s.sid) : checkFrame s.clearDone = startSilence s.clearDone :=
    checkFrame_ok s.clearDone hc (hb.trans (congrArg some ha))
  refine ⟨fun hc => ?_, fun hc ha => ?_, fun hc ha hw => ?_, fun hc ha hw => ?_⟩
  · rw [checkFrame_crc s.clearDone hc]; rfl
  · rw [checkFrame_addr s.clearDone b hc hb ha]; rfl
  · rw [hpass hc ha, startSilence_wait s.clearDone hw]; rfl
  · rw [hpass hc ha, startSilence_zero s.clearDone hw, completeOk_of_receive (s := s.clearDone) (.inl hs)]; rfl

/-- Settles O35: the product does not wrap 18 bits, and the examples by evaluation. -/
theorem silenceIsThirtySixTenthsOfACharacterTime : Obligations.SilenceIsThirtySixTenthsOfACharacterTime :=
  ⟨fun ct => ⟨silenceUs_toNat ct, by have := ct.isLt; omega⟩, rfl, rfl, rfl, rfl, rfl⟩

/-! ## What comes from outside

No agent's move looks at what comes before the steps after it. -/

section
variable (l : List Signal) (s : State)

theorem readByte_withSignals (i : Byte) :
    (s.withSignals l).readByte i = ((s.readByte i).1, (s.readByte i).2.withSignals l) := by
  cases hb : s.byteAt i.toNat with
  | some b => rw [readByte_listed s i b hb, readByte_listed (s.withSignals l) i b hb]
  | none => rw [readByte_unlisted s i hb, readByte_unlisted (s.withSignals l) i hb]; rfl

theorem whenIdle_withSignals {u v : State} (h : v = u.withSignals l) :
    whenIdle (s.withSignals l) (.next v) = mapNext (State.withSignals l) (whenIdle s (.next u)) := by
  by_cases hs : s.stage = .idle
  · rw [whenIdle_idle s _ hs, whenIdle_idle (s.withSignals l) _ hs, h]; rfl
  · rw [whenIdle_busy s _ hs, whenIdle_busy (s.withSignals l) _ hs]; rfl

theorem endPrefix_withSignals (fc : Byte) :
    endPrefix fc (s.withSignals l) = mapNext (State.withSignals l) (endPrefix fc s) := by
  unfold endPrefix
  rw [withSignals_stage, withSignals_rem]
  split
  · split <;> rfl
  · rfl

theorem exec_withSignals (i : Instr) :
    exec i (s.withSignals l) = mapNext (State.withSignals l) (exec i s) := by
  cases i
  case xmit a d => exact whenIdle_withSignals l s (by split <;> rfl)
  case bufRd index d => exact whenIdle_withSignals l s (by rw [readByte_withSignals]; rfl)
  case nop | crcInit | crcUpdate | recv | bufWr | reserved5Hi | reserved6Hi | reserved7 =>
    exact whenIdle_withSignals l s rfl
  all_goals exact endPrefix_withSignals l s _

theorem endOfRead_withSignals :
    endOfRead (s.withSignals l) = mapNext (State.withSignals l) (endOfRead s) := by
  cases hs : s.stage <;> simp only [endOfRead, withSignals_stage, hs]
  case rxPrefix =>
    unfold runFunctionByte
    rw [readByte_withSignals]
    exact exec_withSignals l _ _
  case rxLen =>
    rw [withSignals_idx, readByte_withSignals]
    unfold endLength
    split <;> rfl
  all_goals rfl

theorem rxByte_withSignals (b : Byte) :
    rxByte b (s.withSignals l) = mapNext (State.withSignals l) (rxByte b s) := by
  by_cases hr : (takeByte b s).rem = 0
  · unfold rxByte
    rw [if_pos hr]
    exact (if_pos hr).trans (endOfRead_withSignals l (takeByte b s))
  · unfold rxByte
    rw [if_neg hr]
    exact if_neg hr

theorem readStage_withSignals :
    readStage (s.withSignals l) = mapNext (State.withSignals l) (readStage s) := by
  by_cases hr : s.rem = 0
  · rw [readStage_complete s hr, readStage_complete (s.withSignals l) hr]
    exact endOfRead_withSignals l s
  · rcases hl : s.env.rxLine with _ | ⟨b | _, rest⟩
    · rw [readStage_wait s hr hl, readStage_wait (s.withSignals l) hr hl]; rfl
    · rw [readStage_byte s b rest hr hl, readStage_byte (s.withSignals l) b rest hr hl]
      exact rxByte_withSignals l (s.withRxLine rest) b
    · rw [readStage_fail s rest hr hl, readStage_fail (s.withSignals l) rest hr hl]; rfl

theorem checkFrame_withSignals : checkFrame (s.withSignals l) = (checkFrame s).withSignals l := by
  unfold checkFrame startSilence
  rw [readByte_withSignals, withSignals_crc, withSignals_sid]
  split
  · rfl
  · split
    · rfl
    · rw [withSignals_env]
      split <;> rfl

theorem tick_withSignals : tick (s.withSignals l) = (tick s).withSignals l := by
  by_cases hs : s.stage = .rxSilence
  · by_cases h1 : s.sil = 1
    · rw [tick_last s hs h1, tick_last (s.withSignals l) hs h1]; rfl
    · rw [tick_counts s hs h1, tick_counts (s.withSignals l) hs h1]; rfl
  · rw [tick_elsewhere s hs, tick_elsewhere (s.withSignals l) hs]

theorem silenceStage_withSignals :
    silenceStage (s.withSignals l) = mapNext (State.withSignals l) (silenceStage s) := by
  cases hn : s.env.ticks with
  | zero => rw [silenceStage_wait s hn, silenceStage_wait (s.withSignals l) hn]; rfl
  | succ n =>
    rw [silenceStage_tick s n hn, silenceStage_tick (s.withSignals l) n hn]
    exact congrArg Host.Outcome.next (tick_withSignals l (s.withTicks n))

theorem crcStage_withSignals :
    crcStage (s.withSignals l) = mapNext (State.withSignals l) (crcStage s) := by
  unfold crcStage appendCrc foldByte
  rw [withSignals_idx, withSignals_txlen, readByte_withSignals]
  split
  · rfl
  · split <;> rfl

theorem byteAccepted_withSignals : byteAccepted (s.withSignals l) = (byteAccepted s).withSignals l := by
  have hsend : sendByte (s.withSignals l) = (sendByte s).withSignals l := by
    unfold sendByte
    rw [withSignals_idx, readByte_withSignals]
    unfold State.withSignals
    simp
  unfold byteAccepted
  rw [hsend, withSignals_idx, withSignals_txlen]
  split <;> rfl

theorem sendStage_withSignals :
    sendStage (s.withSignals l) = mapNext (State.withSignals l) (sendStage s) := by
  rcases hl : s.env.txLine with _ | ⟨_ | _, rest⟩
  · rw [sendStage_wait s hl, sendStage_wait (s.withSignals l) hl]; rfl
  · rw [sendStage_accept s rest hl, sendStage_accept (s.withSignals l) rest hl]
    exact congrArg Host.Outcome.next (byteAccepted_withSignals l (s.withTxLine rest))
  · rw [sendStage_fail s rest hl, sendStage_fail (s.withSignals l) rest hl]; rfl

theorem agentStep_withSignals : agentStep (s.withSignals l) = mapNext (State.withSignals l) (agentStep s) := by
  cases hs : s.stage <;> simp only [agentStep, withSignals_stage, hs]
  case idle =>
    cases hc : s.env.hostCmds with
    | nil => rw [idleStage_wait s hc, idleStage_wait (s.withSignals l) hc]; rfl
    | cons cw rest =>
      rw [idleStage_cmd s cw rest hc, idleStage_cmd (s.withSignals l) cw rest hc]
      exact exec_withSignals l (s.withHostCmds rest) _
  case rxCheck => rw [checkFrame_withSignals]; rfl
  case rxSilence => exact silenceStage_withSignals l s
  case txCrc => exact crcStage_withSignals l s
  case txSend => exact sendStage_withSignals l s
  all_goals exact readStage_withSignals l s

end

theorem step_quiet {s : State} {rest : List Signal} (h : s.env.signals = .quiet :: rest) :
    step s = mapNext (State.withSignals rest) (step (s.withSignals [])) := by
  rw [step_undisturbed (s.withSignals []) rfl, ← agentStep_withSignals]
  simp [step, stepWith, h, State.withSignals, State.clearDone]

/-- Settles O34: the tick by the value of `SIL`, and the rest by what comes before the step. -/
theorem ticksCountTheSilence : Obligations.TicksCountTheSilence := by
  refine ⟨fun s n hq hs hn => ?_, tick_elsewhere, fun s ct rest h => ?_, fun s level rest h => ?_,
    fun s t rest h ht => ?_⟩
  · rw [step_takes_tick hq hs hn]
    exact ⟨fun h1 => congrArg Host.Outcome.next (tick_counts _ hs h1),
      fun h1 => congrArg Host.Outcome.next (tick_last _ hs h1)⟩
  · simp [step, stepWith, h, State.clearDone]
  · simp [step, stepWith, h, State.clearDone]
  · rw [step_quiet h]
    exact congrArg (mapNext (State.withSignals rest)) ht

end Sys2Proof.Machine
end

section
/-! The stage tables (41_rtu_receive.md R111, 42_rtu_transmit.md R141): which row each agent's move takes. -/

namespace Sys2Proof.Machine

variable {s t : State} {b : Byte}

/-! ## The rows that leave a read stage -/

/-- With the sixth byte the function byte is in the buffer. -/
theorem State.Inv.prefix_functionByte (h : s.Inv) (hs : s.stage = .rxPrefix) (hlast : s.rem = 1) :
    (takeByte b s).byteAt 1 = some (takeByte b s).functionByte := by
  obtain ⟨hsum, -, hrec⟩ := h.rxPrefix hs
  have hfive : s.idx.toNat = 5 := by rw [hlast] at hsum; simpa using hsum
  have hsix : (takeByte b s).idx.toNat = 6 := by rw [takeByte_idx, len_succ_toNat (by omega), hfive]
  exact byteAt_eq_getD (takeByte_receiving (b := b) (by omega) hrec).1 (by omega)

theorem rxByte_prefix_row (h : s.Inv) (hs : s.stage = .rxPrefix) (ht : rxByte b s = .next t) : stageRow s t := by
  simp only [stageRow, hs]
  by_cases hlast : s.rem = 1
  · have hdue : (takeByte b s).rem = 0 := by rw [takeByte_rem, hlast]; rfl
    rw [rxByte_prefix b _ s hs hlast (h.prefix_functionByte hs hlast)] at ht
    cases hv : isVar (takeByte b s).functionByte
    · rw [endPrefix_fixed (s := takeByte b s) hs hdue hv] at ht
      cases ht
      exact .inr (.inr (.inl ⟨rfl, hlast, rfl, hv⟩))
    · rw [endPrefix_variable (s := takeByte b s) hs hdue hv] at ht
      cases ht
      exact .inr (.inl ⟨rfl, hlast, rfl, hv⟩)
  · rw [rxByte_more b s hlast] at ht
    cases ht
    exact .inl hs

/-- The byte delivered in `RX_LEN` is the length (30_encoding.md R68). -/
theorem State.Inv.length_expectedLen (h : s.Inv) (hs : s.stage = .rxLen) :
    (takeByte b s).expectedLen = 9 + b.toNat := by
  obtain ⟨hsix, -, hvar, -⟩ := h.rxLen hs
  have hstored : (takeByte b s).byteAt 6 = some b := by
    rw [← hsix]; exact takeByte_stores_at_idx (by omega)
  unfold State.expectedLen
  rw [takeByte_functionByte (by omega) (by omega), hstored]
  exact frameLen_variable b hvar

theorem rxByte_length_row (h : s.Inv) (hs : s.stage = .rxLen) (ht : rxByte b s = .next t) : stageRow s t := by
  obtain ⟨-, hlast, -⟩ := h.rxLen hs
  have hone : s.rem = 1 := BitVec.eq_of_toNat_eq hlast
  have hlen := h.length_expectedLen (b := b) hs
  simp only [stageRow, hs]
  rw [rxByte_length b s hs hone] at ht
  cases ht
  rcases Nat.lt_or_ge 247 b.toNat with hlong | hshort
  · rw [endLength_long b _ hlong]
    have hover : 256 < (takeByte b s).expectedLen := by omega
    exact .inr (.inr (.inl ⟨rfl, rfl, hone, hover⟩))
  · rw [endLength_short b _ hshort]
    have hfits : (takeByte b s).expectedLen ≤ 256 := by omega
    exact .inr (.inl ⟨rfl, hone, hfits⟩)

theorem rxByte_tail_row (hs : s.stage = .rxTail) (ht : rxByte b s = .next t) : stageRow s t := by
  simp only [stageRow, hs]
  by_cases hlast : s.rem = 1
  · rw [rxByte_tail b s hs hlast] at ht
    cases ht
    exact .inr (.inl ⟨rfl, hlast⟩)
  · rw [rxByte_more b s hlast] at ht
    cases ht
    exact .inl hs

/-- The tables have a wait in every stage but the two that need no event. -/
theorem stageRow_wait (s : State) (hs : s.stage ≠ .rxCheck) (hc : s.stage ≠ .txCrc) : stageRow s s := by
  cases hg : s.stage <;> simp_all [stageRow]

theorem stageRow_readFailure (hs : s.stage.isRead = true) (hg : t.stage = .idle) (hf : t.status = .failRead) :
    stageRow s t := by
  cases hr : s.stage <;> simp_all [stageRow, Stage.isRead]

theorem readStage_row (h : s.Inv) (hs : s.stage.isRead = true) (ht : readStage s = .next t) : stageRow s t := by
  rcases readStage_next (h.read_rem_ne_zero hs) ht with rfl | ⟨rest, rfl⟩ | ⟨b, rest, -, hb⟩
  · exact stageRow_wait _ (fun hg => by simp [hg, Stage.isRead] at hs) (fun hg => by simp [hg, Stage.isRead] at hs)
  · exact stageRow_readFailure hs rfl rfl
  · cases hg : s.stage
    case rxPrefix => exact rxByte_prefix_row (s := s.withRxLine rest) (h.withEnv _) hg hb
    case rxLen => exact rxByte_length_row (s := s.withRxLine rest) (h.withEnv _) hg hb
    case rxTail => exact rxByte_tail_row (s := s.withRxLine rest) hg hb
    all_goals rw [hg] at hs; cases hs

/-! ## The rows that leave the checks, the silence interval and the transmit stages -/

theorem checkFrame_row (h : s.Inv) (hs : s.stage = .rxCheck) : stageRow s (checkFrame s) := by
  obtain ⟨hidx, -, -, hwritten, -⟩ := h.rxCheck hs
  have hlen : 8 ≤ s.expectedLen := frameLen_ge _ _
  obtain ⟨b, hb⟩ := Option.isSome_iff_exists.mp (hwritten 0 (by omega))
  simp only [stageRow, hs]
  by_cases hcrc : s.crc = 0
  · by_cases haddr : b = s.sid
    · rw [haddr] at hb
      rw [checkFrame_ok s hcrc hb]
      by_cases hzero : silenceUs s.env.charTime = 0
      · rw [startSilence_zero s hzero]
        exact .inr (.inr (.inr ⟨rfl, rfl, hcrc, hb, hzero⟩))
      · rw [startSilence_wait s hzero]
        exact .inr (.inr (.inl ⟨rfl, hcrc, hb, hzero⟩))
    · rw [checkFrame_addr s b hcrc hb haddr]
      exact .inr (.inl ⟨rfl, rfl, hcrc, fun h0 => haddr (Option.some.inj (hb.symm.trans h0))⟩)
  · rw [checkFrame_crc s hcrc]
    exact .inl ⟨rfl, rfl, hcrc⟩

theorem silenceStage_row (hs : s.stage = .rxSilence) (ht : silenceStage s = .next t) : stageRow s t := by
  simp only [stageRow, hs]
  cases hn : s.env.ticks with
  | zero => rw [silenceStage_wait s hn] at ht; cases ht; exact .inl hs
  | succ n =>
    rw [silenceStage_tick s n hn] at ht
    cases ht
    by_cases h1 : s.sil = 1
    · rw [tick_last (s.withTicks n) hs h1]; exact .inr ⟨rfl, rfl, h1⟩
    · rw [tick_counts (s.withTicks n) hs h1]; exact .inl hs

theorem crcStage_row (h : s.Inv) (hs : s.stage = .txCrc) (ht : crcStage s = .next t) : stageRow s t := by
  obtain ⟨hle, hfits⟩ := h.txCrc hs
  simp only [stageRow, hs]
  rcases crcStage_next ht with ⟨hlt, rfl⟩ | ⟨hge, ha⟩
  · exact .inl ⟨(foldByte_stage s).trans hs, hlt⟩
  · obtain ⟨u, hu, -, -, -, hregs, -⟩ := appendCrc_inside s hfits
    cases ha.symm.trans hu
    exact .inr ⟨by rw [hregs], BitVec.eq_of_toNat_eq (Nat.le_antisymm hle hge)⟩

theorem sendStage_row (h : s.Inv) (hs : s.stage = .txSend) (ht : sendStage s = .next t) : stageRow s t := by
  simp only [stageRow, hs]
  rcases sendStage_next ht with rfl | ⟨rest, rfl⟩ | ⟨rest, -, rfl⟩ | ⟨rest, hlast, rfl⟩
  · exact .inl hs
  · exact .inr (.inr ⟨rfl, rfl⟩)
  · exact .inl ((sendByte_stage _).trans hs)
  · exact .inr (.inl ⟨rfl, rfl, (len_succ_toNat h.idxInside).symm.trans hlast⟩)

theorem agentStep_row (h : s.Inv) (ht : agentStep s = .next t) : stageRow s t := by
  cases hs : s.stage
  case idle => simp only [stageRow, hs]
  case rxCheck => rw [agentStep_rxCheck s hs] at ht; cases ht; exact checkFrame_row h hs
  case rxSilence => rw [agentStep_rxSilence s hs] at ht; exact silenceStage_row hs ht
  case txCrc => rw [agentStep_txCrc s hs] at ht; exact crcStage_row h hs ht
  case txSend => rw [agentStep_txSend s hs] at ht; exact sendStage_row h hs ht
  all_goals
    have hread : s.stage.isRead = true := by rw [hs]; rfl
    rw [agentStep_read s hread] at ht
    exact readStage_row h hread ht

/-- Settles O44: the move of the agent whose turn it is takes a row; no condition of a row reads `done`. -/
theorem stepsFollowTheStageTables : Obligations.StepsFollowTheStageTables := by
  intro s t h hq ht
  rw [step_undisturbed s hq] at ht
  exact agentStep_row (s := s.clearDone) (h.toMove s.env.signals) ht

/-! ## The rows that leave `IDLE` -/

/-- Settles O45: of the commands only a `RECV`, or an `XMIT` that fits, changes the stage. -/
theorem onlyRecvAndXmitLeaveIdle : Obligations.OnlyRecvAndXmitLeaveIdle := by
  intro s t hs ht
  rcases step_next ht with ⟨sig, ha⟩ | ⟨rest, -, rfl⟩ | ⟨e, rfl⟩
  · rw [agentStep_idle (s.clearDone.withSignals sig) hs] at ha
    rcases idleStage_next ha with rfl | ⟨cw, rest, hc, hx⟩
    · exact .inl hs
    · rcases execCommand_next (s := (s.clearDone.withSignals sig).withHostCmds rest) hs hx with
        ⟨c, r, n, rfl⟩ | ⟨-, rfl⟩ | ⟨hrecv, rfl⟩ | ⟨hxmit, hfits, rfl⟩ | ⟨-, rfl⟩
      · exact .inl hs
      · exact .inl hs
      · exact .inr ⟨cw, rest, hc, rfl, .inl ⟨hrecv, rfl⟩⟩
      · exact .inr ⟨cw, rest, hc, rfl, .inr ⟨hxmit, hfits, rfl⟩⟩
      · exact .inl rfl
  · exact .inl rfl
  · exact .inl hs

end Sys2Proof.Machine
end

section
/-! A whole receive (41_rtu_receive.md R120). A run is followed through the stages by what it has received so
far: the bytes `u` are in the buffer and in `CRC`, and the transport will answer `line`. Each stage is one
lemma that carries this from the stage's first state to the next stage, or to the end of the receive. -/

namespace Sys2Proof.Machine

/-! ## Runs -/

/-- Some number of steps lead from `s` to `t`. -/
def LeadsTo (s t : State) : Prop := ∃ n, steps n s = .next t

section
variable {s t u : State}

theorem LeadsTo.refl (s : State) : LeadsTo s s := ⟨0, rfl⟩

theorem LeadsTo.head (h : step s = .next t) (ht : LeadsTo t u) : LeadsTo s u := by
  obtain ⟨n, hn⟩ := ht
  exact ⟨n + 1, by rw [steps, h]; exact hn⟩

theorem LeadsTo.of_step (h : step s = .next t) : LeadsTo s t := .head h (.refl t)

theorem LeadsTo.trans (hs : LeadsTo s t) (ht : LeadsTo t u) : LeadsTo s u := by
  obtain ⟨n, hn⟩ := hs
  induction n generalizing s with
  | zero => cases hn; exact ht
  | succ n ih =>
    rw [steps] at hn
    cases hstep : step s with
    | next s' => rw [hstep] at hn; exact .head hstep (ih hn)
    | fault f => rw [hstep] at hn; cases hn
    | refused r => rw [hstep] at hn; cases hn

end

/-! ## What has been received -/

/-- Since the start of the receive in `base` the bytes `u` have come in: they are in the buffer from index 0
on, and in `CRC`. -/
structure HasReceived (base : State) (u : List Byte) (t : State) : Prop where
  sid : t.sid = base.sid
  crc : t.crc = crc16 u
  idx : t.idx.toNat = u.length
  stored : ∀ i, i < u.length → t.byteAt i = u[i]?
  kept : ∀ i, u.length ≤ i → t.byteAt i = base.byteAt i

/-- The receive that started in `base` is going on, with `u` received and `line` the transport's answers to
come. -/
structure InReceive (base : State) (line : List RxAnswer) (u : List Byte) (t : State) : Prop
    extends HasReceived base u t where
  quiet : t.Undisturbed
  env : t.env = { base.env with rxLine := line }
  rxlen : t.rxlen = 0

/-- The receive that started in `base` has ended as the row `o` says, with `u` received. -/
structure ReceiveEnded (base : State) (line : List RxAnswer) (o : RecvOutcome) (u : List Byte) (t : State) : Prop
    extends HasReceived base u t where
  consumed : u.length = o.consumed
  stage : t.stage = .idle
  done : t.done = true
  status : t.status = o.status
  rxlen : t.rxlen.toNat = o.rxlen
  env : t.env = { base.env with
    rxLine := line
    ticks := if o.waits then base.env.ticks - (silenceUs base.env.charTime).toNat else base.env.ticks }

section
variable {base t : State} {line : List RxAnswer} {u v : List Byte}

/-- One more byte is received (R112). -/
theorem HasReceived.append {b : Byte} (h : HasReceived base u t) (hfit : u.length ≤ 255) :
    HasReceived base (u ++ [b]) (takeByte b t) := by
  have hi : t.idx.toNat ≤ 255 := h.idx.trans_le hfit
  refine ⟨h.sid, ?_, ?_, fun i hlt => ?_, fun i hle => ?_⟩
  · rw [takeByte_crc, h.crc, crc16_concat]
  · rw [takeByte_idx, len_succ_toNat (by omega), h.idx, List.length_append, List.length_singleton]
  · rw [List.length_append, List.length_singleton] at hlt
    by_cases hlast : i = u.length
    · rw [hlast, ← h.idx, takeByte_stores_at_idx hi, h.idx, List.getElem?_concat_length]
    · have hold : i < u.length := by omega
      rw [takeByte_keeps_byteAt hi (by rw [h.idx]; exact hlast), h.stored i hold, List.getElem?_append_left hold]
  · rw [List.length_append, List.length_singleton] at hle
    rw [takeByte_keeps_byteAt hi (by rw [h.idx]; omega)]
    exact h.kept i (by omega)

theorem InReceive.env_rxLine (h : InReceive base line u t) : t.env.rxLine = line := by rw [h.env]

theorem InReceive.env_charTime (h : InReceive base line u t) : t.env.charTime = base.env.charTime := by rw [h.env]

theorem InReceive.env_ticks (h : InReceive base line u t) : t.env.ticks = base.env.ticks := by rw [h.env]

section
variable {o : RecvOutcome}

theorem ReceiveEnded.env_hostCmds (h : ReceiveEnded base line o u t) : t.env.hostCmds = base.env.hostCmds := by
  rw [h.env]

theorem ReceiveEnded.env_rxLine (h : ReceiveEnded base line o u t) : t.env.rxLine = line := by rw [h.env]

theorem ReceiveEnded.env_ticks (h : ReceiveEnded base line o u t) : t.env.ticks =
    if o.waits then base.env.ticks - (silenceUs base.env.charTime).toNat else base.env.ticks := by rw [h.env]

theorem ReceiveEnded.env_txStream (h : ReceiveEnded base line o u t) : t.env.txStream = base.env.txStream := by
  rw [h.env]

end

/-- The transport's byte is received. -/
theorem InReceive.append {a : RxAnswer} {b : Byte} (h : InReceive base (a :: line) u t) (hfit : u.length ≤ 255) :
    InReceive base line (u ++ [b]) (takeByte b (t.clearDone.withRxLine line)) where
  toHasReceived := HasReceived.append (t := t.clearDone.withRxLine line)
    ⟨h.sid, h.crc, h.idx, h.stored, h.kept⟩ hfit
  quiet := h.quiet
  env := by rw [takeByte_env, withRxLine_env, clearDone_env, h.env]
  rxlen := h.rxlen

/-- The end of a read stage sets `REM` and `STAGE` only. -/
theorem InReceive.nextStage (h : InReceive base line u t) (r : Len) (g : Stage) :
    InReceive base line u { t with rem := r, stage := g } :=
  ⟨⟨h.sid, h.crc, h.idx, h.stored, h.kept⟩, h.quiet, h.env, h.rxlen⟩

/-- A failure ends the receive without a wait (60_exceptions.md R203). -/
theorem InReceive.fail (h : InReceive base line u t) (k : Status) :
    ReceiveEnded base line ⟨k, u.length, 0, false⟩ u (t.fail k) where
  toHasReceived := ⟨h.sid, h.crc, h.idx, h.stored, h.kept⟩
  consumed := rfl
  stage := rfl
  done := rfl
  status := rfl
  rxlen := by rw [fail_rxlen, h.rxlen]; rfl
  env := h.env

/-! ## The read stages -/

theorem InReceive.step_byte {b : Byte} (h : InReceive base (.byte b :: line) u t) (hs : t.stage.isRead = true)
    (hr : t.rem ≠ 0) : step t = rxByte b (t.clearDone.withRxLine line) :=
  step_takes_byte h.quiet hs hr h.env_rxLine

/-- Bytes that do not bring `REM` to 0 are received, and the stage goes on. -/
theorem InReceive.reads (h : InReceive base (v.map .byte ++ line) u t) (hs : t.stage.isRead = true)
    (hmore : v.length < t.rem.toNat) (hfit : u.length + v.length ≤ 256) :
    ∃ w, LeadsTo t w ∧ InReceive base line (u ++ v) w ∧ w.stage = t.stage ∧
      w.rem.toNat = t.rem.toNat - v.length := by
  induction v generalizing u t with
  | nil => exact ⟨t, .refl t, by simpa using h, rfl, rfl⟩
  | cons b v ih =>
    rw [List.length_cons] at hmore hfit
    have h0 : t.rem ≠ 0 := fun h0 => by simp [h0] at hmore
    have h1 : t.rem ≠ 1 := fun h1 => by simp [h1] at hmore
    have hstep := (h.step_byte hs h0).trans (rxByte_more b (t.clearDone.withRxLine _) h1)
    have hrem : (t.rem - 1).toNat = t.rem.toNat - 1 := len_pred_toNat (by omega)
    obtain ⟨w, hw, hin, hstage, hleft⟩ := ih (h.append (b := b) (by omega)) hs
      (by rw [takeByte_rem, withRxLine_rem, clearDone_rem]; omega) (by simp; omega)
    refine ⟨w, .head hstep hw, by simpa using hin, hstage, ?_⟩
    rw [hleft, takeByte_rem, withRxLine_rem, clearDone_rem, List.length_cons]
    omega

/-- The bytes that bring `REM` to 0 are received, and the end of the stage is run on the last of them. -/
theorem InReceive.reads_to_the_end {b : Byte} (h : InReceive base ((v ++ [b]).map .byte ++ line) u t)
    (hs : t.stage.isRead = true) (hrem : t.rem.toNat = v.length + 1) (hfit : u.length + v.length ≤ 255) :
    ∃ x, x.stage = t.stage ∧ x.rem = 1 ∧ InReceive base line (u ++ (v ++ [b])) (takeByte b x) ∧
      ∀ w, rxByte b x = .next w → LeadsTo t w := by
  rw [List.map_append, List.append_assoc] at h
  obtain ⟨y, hy, hin, hstage, hleft⟩ := h.reads hs (by omega) (by omega)
  have hone : y.rem = 1 := by bv_omega
  have hin' := hin.append (b := b) (by simp; omega)
  rw [List.append_assoc] at hin'
  refine ⟨y.clearDone.withRxLine line, hstage, hone, hin', fun w hw => hy.trans (.of_step ?_)⟩
  rw [hin.step_byte (hstage ▸ hs) (by rw [hone]; decide)]
  exact hw

/-- A read failure after `v` ends the receive (R114). -/
theorem InReceive.reads_failure (h : InReceive base (v.map .byte ++ .fail :: line) u t)
    (hs : t.stage.isRead = true) (hmore : v.length < t.rem.toNat) (hfit : u.length + v.length ≤ 256) :
    ∃ w, LeadsTo t w ∧ ReceiveEnded base line ⟨.failRead, (u ++ v).length, 0, false⟩ (u ++ v) w := by
  obtain ⟨y, hy, hin, hstage, hleft⟩ := h.reads hs hmore hfit
  have h0 : y.rem ≠ 0 := fun h0 => by rw [h0] at hleft; simp at hleft; omega
  have hstep := step_takes_readFailure hin.quiet (hstage ▸ hs) h0 hin.env_rxLine
  have hdropped : InReceive base line (u ++ v) (y.clearDone.withRxLine line) :=
    ⟨⟨hin.sid, hin.crc, hin.idx, hin.stored, hin.kept⟩, hin.quiet,
      by rw [withRxLine_env, clearDone_env, hin.env], hin.rxlen⟩
  exact ⟨_, hy.trans (.of_step hstep), hdropped.fail _⟩

/-- The first six bytes are received: the function byte chooses the next read (R113, first case). -/
theorem InReceive.reads_prefix (h : InReceive base (v.map .byte ++ line) [] t) (hs : t.stage = .rxPrefix)
    (hrem : t.rem = 6) (hlen : v.length = 6) :
    ∃ w, LeadsTo t w ∧ InReceive base line v w ∧
      (isVar (v.getD 1 0) = true → w.stage = .rxLen ∧ w.rem = 1) ∧
      (isVar (v.getD 1 0) = false → w.stage = .rxTail ∧ w.rem = 2) := by
  obtain ⟨p, b, rfl⟩ := (List.eq_nil_or_concat' v).resolve_left (by rintro rfl; cases hlen)
  rw [List.length_append, List.length_singleton] at hlen
  obtain ⟨x, hstage, hone, hin, hlast⟩ := h.reads_to_the_end (by rw [hs]; rfl) (by rw [hrem, hlen]; rfl)
    (by simp; omega)
  have hfc : (takeByte b x).byteAt 1 = some ((p ++ [b]).getD 1 0) := by
    rw [hin.stored 1 (by simp; omega), List.nil_append, List.getD_eq_getElem?_getD,
      List.getElem?_eq_getElem (by simp; omega)]
    rfl
  have hdue : (takeByte b x).rem = 0 := by rw [takeByte_rem, hone]; rfl
  have hrun := rxByte_prefix b _ x (hstage.trans hs) hone hfc
  rw [endPrefix_due _ (takeByte b x) (hstage.trans hs) hdue] at hrun
  refine ⟨_, hlast _ hrun, ?_, fun hv => ?_, fun hv => ?_⟩
  · split <;> exact hin.nextStage _ _
  · rw [if_pos hv]; exact ⟨rfl, rfl⟩
  · rw [if_neg (ne_true_of_eq_false hv)]; exact ⟨rfl, rfl⟩

/-- The length byte is received: it ends the receive, or the tail follows (R113, second case). -/
theorem InReceive.reads_length {l : Byte} (h : InReceive base (.byte l :: line) u t) (hs : t.stage = .rxLen)
    (hrem : t.rem = 1) (hfit : u.length ≤ 255) :
    (247 < l.toNat → ∃ w, LeadsTo t w ∧
      ReceiveEnded base line ⟨.failCap, (u ++ [l]).length, 0, false⟩ (u ++ [l]) w) ∧
    (l.toNat ≤ 247 → ∃ w, LeadsTo t w ∧ InReceive base line (u ++ [l]) w ∧
      w.stage = .rxTail ∧ w.rem.toNat = l.toNat + 2) := by
  obtain ⟨x, hstage, hone, hin, hlast⟩ := InReceive.reads_to_the_end (v := []) h (by rw [hs]; rfl)
    (by rw [hrem]; rfl) hfit
  have hrun := rxByte_length l x (hstage.trans hs) hone
  refine ⟨fun hlong => ?_, fun hshort => ?_⟩
  · rw [endLength_long l _ hlong] at hrun
    exact ⟨_, hlast _ hrun, hin.fail _⟩
  · rw [endLength_short l _ hshort] at hrun
    exact ⟨_, hlast _ hrun, hin.nextStage _ _, rfl, by simp; omega⟩

/-- The tail is received: the checks are next (R113, third case). -/
theorem InReceive.reads_tail (h : InReceive base (v.map .byte ++ line) u t) (hs : t.stage = .rxTail)
    (hrem : t.rem.toNat = v.length) (hpos : 0 < v.length) (hfit : u.length + v.length ≤ 256) :
    ∃ w, LeadsTo t w ∧ InReceive base line (u ++ v) w ∧ w.stage = .rxCheck := by
  obtain ⟨p, b, rfl⟩ := (List.eq_nil_or_concat' v).resolve_left (by rintro rfl; cases hpos)
  rw [List.length_append, List.length_singleton] at hrem hfit
  obtain ⟨x, hstage, hone, hin, hlast⟩ := h.reads_to_the_end (by rw [hs]; rfl) hrem (by omega)
  exact ⟨_, hlast _ (rxByte_tail b x (hstage.trans hs) hone), hin.nextStage _ _, rfl⟩

/-! ## The checks and the silence interval -/

/-- `SIL` ticks complete the receive (R118). -/
theorem leadsTo_end_of_silence {n k : Nat} (hq : t.Undisturbed) (hs : t.stage = .rxSilence)
    (hsil : t.sil.toNat = n + 1) (hticks : t.env.ticks = n + 1 + k) :
    LeadsTo t { t.withTicks k with sil := 0, status := .ok, rxlen := t.idx - 2, stage := .idle, done := true } := by
  induction n generalizing t with
  | zero =>
    have hlast : t.sil = 1 := BitVec.eq_of_toNat_eq hsil
    have hstep := step_takes_tick (n := k) hq hs (by omega)
    rw [tick_last (t.clearDone.withTicks k) hs hlast] at hstep
    exact .of_step hstep
  | succ n ih =>
    have hmore : t.sil ≠ 1 := fun h1 => by simp [h1] at hsil
    have hstep := step_takes_tick (n := n + 1 + k) hq hs (by omega)
    rw [tick_counts (t.clearDone.withTicks _) hs hmore] at hstep
    exact .head hstep (ih hq hs (by simp; bv_omega) rfl)

/-- Both checks pass: the receive ends in `OK` after the silence interval (R117, R118). -/
theorem InReceive.passes (h : InReceive base line u t) (hs : t.stage = .rxCheck) (hlen : 2 ≤ u.length)
    (hcrc : crc16 u = 0) (haddr : t.byteAt 0 = some t.sid)
    (hticks : (silenceUs base.env.charTime).toNat ≤ base.env.ticks) :
    ∃ w, LeadsTo t w ∧ ReceiveEnded base line ⟨.ok, u.length, u.length - 2, true⟩ u w := by
  have hstep := step_rxCheck h.quiet hs
  rw [checkFrame_ok t.clearDone (h.crc.trans hcrc) haddr] at hstep
  have hct : t.clearDone.env.charTime = base.env.charTime := h.env_charTime
  have hrxlen : (t.idx - 2).toNat = u.length - 2 := by rw [← h.idx] at hlen ⊢; bv_omega
  by_cases hzero : silenceUs base.env.charTime = 0
  · rw [startSilence_zero _ (hct ▸ hzero), completeOk_of_receive (s := t.clearDone) (.inl hs)] at hstep
    refine ⟨_, .of_step hstep, ⟨h.sid, h.crc, h.idx, h.stored, h.kept⟩, rfl, rfl, rfl, rfl, hrxlen, ?_⟩
    rw [hzero]
    exact h.env
  · rw [startSilence_wait _ (hct ▸ hzero), hct] at hstep
    obtain ⟨n, hn⟩ : ∃ n, (silenceUs base.env.charTime).toNat = n + 1 :=
      ⟨_, (Nat.sub_add_cancel (by bv_omega)).symm⟩
    have hend := leadsTo_end_of_silence (k := base.env.ticks - (silenceUs base.env.charTime).toNat)
      (t := { t.clearDone with sil := silenceUs base.env.charTime, stage := .rxSilence }) h.quiet rfl hn
      (h.env_ticks.trans (by omega))
    refine ⟨_, .head hstep hend, ⟨h.sid, h.crc, h.idx, h.stored, h.kept⟩, rfl, rfl, rfl, rfl, hrxlen, ?_⟩
    exact congrArg (fun e : Env => { e with
      ticks := base.env.ticks - (silenceUs base.env.charTime).toNat }) h.env

/-- A frame that fails a check ends the receive (R116). -/
theorem InReceive.fails_check (h : InReceive base line u t) (hs : t.stage = .rxCheck) {k : Status}
    (hfail : checkFrame t.clearDone = t.clearDone.fail k) :
    ∃ w, LeadsTo t w ∧ ReceiveEnded base line ⟨k, u.length, 0, false⟩ u w := by
  have hstep := step_rxCheck h.quiet hs
  rw [hfail] at hstep
  have hclear : InReceive base line u t.clearDone :=
    ⟨⟨h.sid, h.crc, h.idx, h.stored, h.kept⟩, h.quiet, h.env, h.rxlen⟩
  exact ⟨_, .of_step hstep, hclear.fail k⟩

end

/-! ## The rows of the table (R120) -/

/-- The length of the frame that `r` begins with, if `r` is long enough to tell (30_encoding.md R68). -/
def frameLenOf (r : List Byte) : Nat := frameLen (r.getD 1 0) (r.getD 6 0)

theorem frameLenOf_fixed {r : List Byte} (h : isVar (r.getD 1 0) = false) : frameLenOf r = 8 := frameLen_fixed _ h

theorem frameLenOf_variable {r : List Byte} (h : isVar (r.getD 1 0) = true) :
    frameLenOf r = 9 + (r.getD 6 0).toNat := frameLen_variable _ h

/-- A receive starts in `base`, with `r` and then `rest` the transport's answers. -/
structure ReceiveStarts (base : State) (r : List Byte) (rest : List RxAnswer) : Prop where
  start : InReceive base (r.map .byte ++ rest) [] base
  stage : base.stage = .rxPrefix
  rem : base.rem = 6

/-- The receive of `r` that starts in `base` ends as the row `o` says. -/
def EndsAs (base : State) (r : List Byte) (rest : List RxAnswer) (o : RecvOutcome) : Prop :=
  ∃ w, LeadsTo base w ∧ ReceiveEnded base
    (if o.status = .failRead then rest.tail else (r.drop o.consumed).map .byte ++ rest) o (r.take o.consumed) w

section
variable {base w : State} {r : List Byte} {rest line more : List RxAnswer}

theorem map_byte_split (k : Nat) (r : List Byte) (rest : List RxAnswer) :
    r.map RxAnswer.byte ++ rest = (r.take k).map .byte ++ ((r.drop k).map .byte ++ rest) := by
  rw [← List.append_assoc, ← List.map_append, List.take_append_drop]

/-- A read stage that asks for more bytes than the transport has left ends the receive. -/
theorem endsAs_failRead {k : Nat} (hw : LeadsTo base w)
    (hin : InReceive base ((r.drop k).map .byte ++ .fail :: more) (r.take k) w) (hs : w.stage.isRead = true)
    (hshort : r.length < k + w.rem.toNat) (hk : k ≤ r.length) (hfit : r.length ≤ 256) :
    EndsAs base r (.fail :: more) ⟨.failRead, r.length, 0, false⟩ := by
  obtain ⟨x, hx, hend⟩ := hin.reads_failure hs (by simp; omega) (by simp; omega)
  rw [List.take_append_drop] at hend
  exact ⟨x, hw.trans hx, by rw [List.take_length]; exact hend⟩

theorem ReceiveStarts.ends_in_prefix (h : ReceiveStarts base r (.fail :: more)) (hlen : r.length < 6) :
    EndsAs base r (.fail :: more) ⟨.failRead, r.length, 0, false⟩ :=
  endsAs_failRead (k := 0) (.refl base) h.start (by rw [h.stage]; rfl) (by rw [h.rem, Nat.zero_add]; exact hlen)
    (Nat.zero_le _) (by omega)

theorem ReceiveStarts.reaches_end_of_prefix (h : ReceiveStarts base r rest) (hlen : 6 ≤ r.length) :
    ∃ w, LeadsTo base w ∧ InReceive base ((r.drop 6).map .byte ++ rest) (r.take 6) w ∧
      (isVar (r.getD 1 0) = true → w.stage = .rxLen ∧ w.rem = 1) ∧
      (isVar (r.getD 1 0) = false → w.stage = .rxTail ∧ w.rem = 2) := by
  have hstart := h.start
  rw [map_byte_split 6] at hstart
  have hfc : (r.take 6).getD 1 0 = r.getD 1 0 := by
    rw [List.getD_eq_getElem?_getD, List.getD_eq_getElem?_getD, List.getElem?_take_of_lt (by omega)]
  rw [← hfc]
  exact hstart.reads_prefix h.stage h.rem (by simp; omega)

theorem drop_six_eq_cons (hlen : 7 ≤ r.length) : r.drop 6 = r.getD 6 0 :: r.drop 7 := by
  rw [List.drop_eq_getElem_cons (by omega), List.getD_eq_getElem _ _ (by omega)]

theorem take_seven_eq_concat (hlen : 7 ≤ r.length) : r.take 7 = r.take 6 ++ [r.getD 6 0] := by
  rw [List.take_succ_eq_append_getElem (by omega), List.getD_eq_getElem _ _ (by omega)]

theorem ReceiveStarts.ends_before_length (h : ReceiveStarts base r (.fail :: more)) (hlen : r.length = 6)
    (hv : isVar (r.getD 1 0) = true) : EndsAs base r (.fail :: more) ⟨.failRead, 6, 0, false⟩ := by
  obtain ⟨w, hw, hin, hvar, -⟩ := h.reaches_end_of_prefix hlen.ge
  obtain ⟨hs, hrem⟩ := hvar hv
  have hend := endsAs_failRead hw hin (by rw [hs]; rfl) (by rw [hrem, hlen]; decide) hlen.ge (by omega)
  rwa [hlen] at hend

theorem ReceiveStarts.ends_too_long (h : ReceiveStarts base r rest) (hlen : 7 ≤ r.length)
    (hv : isVar (r.getD 1 0) = true) (hlong : 247 < (r.getD 6 0).toNat) :
    EndsAs base r rest ⟨.failCap, 7, 0, false⟩ := by
  obtain ⟨w, hw, hin, hvar, -⟩ := h.reaches_end_of_prefix (by omega)
  obtain ⟨hs, hrem⟩ := hvar hv
  rw [drop_six_eq_cons hlen] at hin
  obtain ⟨hends, -⟩ := hin.reads_length hs hrem (by simp)
  obtain ⟨x, hx, hend⟩ := hends hlong
  rw [← take_seven_eq_concat hlen, List.length_take_of_le hlen] at hend
  exact ⟨x, hw.trans hx, hend⟩

/-- Once the bytes that choose the frame's shape are in, the rest of the frame is read in `RX_TAIL`. -/
theorem ReceiveStarts.reaches_tail (h : ReceiveStarts base r rest) (hlen : 6 ≤ r.length)
    (hv : isVar (r.getD 1 0) = true → 7 ≤ r.length) (hfit : frameLenOf r ≤ 256) :
    ∃ k w, LeadsTo base w ∧ InReceive base ((r.drop k).map .byte ++ rest) (r.take k) w ∧ w.stage = .rxTail ∧
      k ≤ r.length ∧ k + w.rem.toNat = frameLenOf r ∧ 0 < w.rem.toNat := by
  obtain ⟨w, hw, hin, hvar, hfixed⟩ := h.reaches_end_of_prefix hlen
  cases hfc : isVar (r.getD 1 0) with
  | false =>
    obtain ⟨hs, hrem⟩ := hfixed hfc
    exact ⟨6, w, hw, hin, hs, hlen, by rw [hrem, frameLenOf_fixed hfc]; rfl, by rw [hrem]; decide⟩
  | true =>
    obtain ⟨hs, hrem⟩ := hvar hfc
    rw [frameLenOf_variable hfc] at hfit ⊢
    rw [drop_six_eq_cons (hv hfc)] at hin
    obtain ⟨-, hgoes⟩ := hin.reads_length hs hrem (by simp)
    obtain ⟨x, hx, hin', hs', hrem'⟩ := hgoes (by omega)
    rw [← take_seven_eq_concat (hv hfc)] at hin'
    exact ⟨7, x, hw.trans hx, hin', hs', hv hfc, by omega, by omega⟩

theorem ReceiveStarts.ends_in_tail (h : ReceiveStarts base r (.fail :: more)) (hlen : 6 ≤ r.length)
    (hv : isVar (r.getD 1 0) = true → 7 ≤ r.length) (hfit : frameLenOf r ≤ 256)
    (hshort : r.length < frameLenOf r) :
    EndsAs base r (.fail :: more) ⟨.failRead, r.length, 0, false⟩ := by
  obtain ⟨k, w, hw, hin, hs, hk, hsum, -⟩ := h.reaches_tail hlen hv hfit
  exact endsAs_failRead hw hin (by rw [hs]; rfl) (by omega) hk (by omega)

/-- A frame fits the buffer unless its length byte says otherwise (R113). -/
theorem frameLenOf_fits_iff (r : List Byte) :
    frameLenOf r ≤ 256 ↔ ¬(isVar (r.getD 1 0) = true ∧ 247 < (r.getD 6 0).toNat) := by
  cases hv : isVar (r.getD 1 0)
  · simp [frameLenOf_fixed hv]
  · rw [frameLenOf_variable hv]
    simp
    omega

theorem eight_le_frameLenOf (r : List Byte) : 8 ≤ frameLenOf r := frameLen_ge _ _

/-- A frame that is there as a whole, and fits the buffer, is checked. -/
theorem ReceiveStarts.reaches_check (h : ReceiveStarts base r rest) (hfit : frameLenOf r ≤ 256)
    (hwhole : frameLenOf r ≤ r.length) :
    ∃ w, LeadsTo base w ∧ InReceive base ((r.drop (frameLenOf r)).map .byte ++ rest) (r.take (frameLenOf r)) w ∧
      w.stage = .rxCheck := by
  have hmin := eight_le_frameLenOf r
  obtain ⟨k, w, hw, hin, hs, hk, hsum, hpos⟩ := h.reaches_tail (by omega) (fun _ => by omega) hfit
  have htail : ((r.drop k).take w.rem.toNat).length = w.rem.toNat := List.length_take_of_le (by simp; omega)
  rw [map_byte_split w.rem.toNat] at hin
  obtain ⟨x, hx, hin', hs'⟩ := hin.reads_tail hs htail.symm (by omega) (by rw [htail]; simp; omega)
  rw [List.drop_drop, ← List.take_add, hsum] at hin'
  exact ⟨x, hw.trans hx, hin', hs'⟩

/-- The frame's bytes pass or fail the checks (R116 to R118). -/
theorem ReceiveStarts.ends_at_checks (h : ReceiveStarts base r rest) (hfit : frameLenOf r ≤ 256)
    (hwhole : frameLenOf r ≤ r.length) :
    (crc16 (r.take (frameLenOf r)) ≠ 0 → EndsAs base r rest ⟨.failCrc, frameLenOf r, 0, false⟩) ∧
    (crc16 (r.take (frameLenOf r)) = 0 → r.getD 0 0 ≠ base.sid →
      EndsAs base r rest ⟨.failAddr, frameLenOf r, 0, false⟩) ∧
    (crc16 (r.take (frameLenOf r)) = 0 → r.getD 0 0 = base.sid →
      (silenceUs base.env.charTime).toNat ≤ base.env.ticks →
      EndsAs base r rest ⟨.ok, frameLenOf r, frameLenOf r - 2, true⟩) := by
  have hmin := eight_le_frameLenOf r
  obtain ⟨w, hw, hin, hs⟩ := h.reaches_check hfit hwhole
  have hlen : (r.take (frameLenOf r)).length = frameLenOf r := List.length_take_of_le hwhole
  have haddr : w.byteAt 0 = some (r.getD 0 0) := by
    rw [hin.stored 0 (by omega), List.getElem?_take_of_lt (by omega), List.getD_eq_getElem _ _ (by omega),
      List.getElem?_eq_getElem]
  refine ⟨fun hc => ?_, fun hc ha => ?_, fun hc ha hticks => ?_⟩
  · obtain ⟨x, hx, hend⟩ := hin.fails_check hs (checkFrame_crc w.clearDone (by rwa [clearDone_crc, hin.crc]))
    rw [hlen] at hend
    exact ⟨x, hw.trans hx, hend⟩
  · obtain ⟨x, hx, hend⟩ := hin.fails_check hs
      (checkFrame_addr w.clearDone _ (hin.crc.trans hc) haddr (by rwa [clearDone_sid, hin.sid]))
    rw [hlen] at hend
    exact ⟨x, hw.trans hx, hend⟩
  · obtain ⟨x, hx, hend⟩ := hin.passes hs (by omega) hc (by rw [haddr, ha, hin.sid]) hticks
    rw [hlen] at hend
    exact ⟨x, hw.trans hx, hend⟩

/-- R120: the receive ends as the row of the table says, where the transport fails a receive that asks for
more, and where a receive that waits has its ticks. -/
theorem ReceiveStarts.endsAs_recvOutcome (h : ReceiveStarts base r rest)
    (hfail : (recvOutcome base.sid r).status = .failRead → ∃ more, rest = .fail :: more)
    (hticks : (recvOutcome base.sid r).waits = true → (silenceUs base.env.charTime).toNat ≤ base.env.ticks) :
    EndsAs base r rest (recvOutcome base.sid r) := by
  have hseven (h5 : ¬r.length < 6) (h6 : ¬(isVar (r.getD 1 0) = true ∧ r.length = 6))
      (hv : isVar (r.getD 1 0) = true) : 7 ≤ r.length := by
    have : r.length ≠ 6 := fun hsix => h6 ⟨hv, hsix⟩
    omega
  generalize ho : recvOutcome base.sid r = o at hfail hticks ⊢
  unfold recvOutcome at ho
  simp only [Bool.and_eq_true, beq_iff_eq, decide_eq_true_eq] at ho
  split_ifs at ho with hprefix hlength hcap htail hcrc haddr <;> subst ho
  · obtain ⟨more, rfl⟩ := hfail rfl
    exact h.ends_in_prefix hprefix
  · obtain ⟨more, rfl⟩ := hfail rfl
    obtain ⟨hv, hsix⟩ := hlength
    exact h.ends_before_length hsix hv
  · obtain ⟨hv, hlong⟩ := hcap
    exact h.ends_too_long (hseven hprefix hlength hv) hv hlong
  · obtain ⟨more, rfl⟩ := hfail rfl
    exact h.ends_in_tail (Nat.le_of_not_lt hprefix) (hseven hprefix hlength) ((frameLenOf_fits_iff r).mpr hcap) htail
  · obtain ⟨hends, -, -⟩ := h.ends_at_checks ((frameLenOf_fits_iff r).mpr hcap) (Nat.le_of_not_lt htail)
    exact hends hcrc
  · obtain ⟨-, hends, -⟩ := h.ends_at_checks ((frameLenOf_fits_iff r).mpr hcap) (Nat.le_of_not_lt htail)
    exact hends (not_not.mp hcrc) haddr
  · obtain ⟨-, -, hends⟩ := h.ends_at_checks ((frameLenOf_fits_iff r).mpr hcap) (Nat.le_of_not_lt htail)
    exact hends (not_not.mp hcrc) (not_not.mp haddr) (hticks rfl)

end

/-! ## From `RECV` on -/

section
variable {s : State} {a : Len} {sid : Byte} {cs : List CmdWord} {r : List Byte} {rest : List RxAnswer}

/-- The state in which `RECV` leaves the block has received nothing yet. -/
theorem receiveStarts_recvStarted (hq : s.Undisturbed) (hl : s.env.rxLine = r.map .byte ++ rest) :
    ReceiveStarts (recvStarted sid (s.clearDone.withHostCmds cs)) r rest where
  start := {
    sid := rfl
    crc := rfl
    idx := rfl
    stored := fun _ hi => absurd hi (Nat.not_lt_zero _)
    kept := fun _ _ => rfl
    quiet := hq
    env := by rw [← hl]; rfl
    rxlen := rfl }
  stage := rfl
  rem := rfl

theorem step_takes_recv (hs : s.stage = .idle) (hq : s.Undisturbed) (hc : s.env.hostCmds = packCommand 3 a sid :: cs) :
    step s = .next (recvStarted sid (s.clearDone.withHostCmds cs)) := by
  rw [stepRunsTheDecodedCommand s _ cs hq hs hc]
  exact (congrArg (exec · _) (decodeCommand_recv a sid)).trans (execRecv_idle a sid hs)

/-- An idle block that takes a `RECV` ends the receive as the table says. -/
theorem receive_endsAs_recvOutcome (hs : s.stage = .idle) (hq : s.Undisturbed)
    (hc : s.env.hostCmds = packCommand 3 a sid :: cs) (hl : s.env.rxLine = r.map .byte ++ rest)
    (hfail : (recvOutcome sid r).status = .failRead → ∃ more, rest = .fail :: more)
    (hticks : (recvOutcome sid r).waits = true → (silenceUs s.env.charTime).toNat ≤ s.env.ticks) :
    ∃ t, LeadsTo s t ∧ ReceiveEnded (recvStarted sid (s.clearDone.withHostCmds cs))
      (if (recvOutcome sid r).status = .failRead then rest.tail
        else (r.drop (recvOutcome sid r).consumed).map .byte ++ rest)
      (recvOutcome sid r) (r.take (recvOutcome sid r).consumed) t := by
  have hstart : ReceiveStarts (recvStarted sid (s.clearDone.withHostCmds cs)) r rest :=
    receiveStarts_recvStarted hq hl
  obtain ⟨t, ht, hend⟩ := hstart.endsAs_recvOutcome hfail hticks
  exact ⟨t, .head (step_takes_recv hs hq hc) ht, hend⟩

end

/-- Settles O54: the end of the receive, read off at each output. -/
theorem wholeReceiveEndsAsItsTableSays : Obligations.WholeReceiveEndsAsItsTableSays := by
  intro s a sid cs r rest hs hq hc hl hfail hticks
  obtain ⟨t, ⟨n, hn⟩, hend⟩ := receive_endsAs_recvOutcome hs hq hc hl hfail fun _ => hticks
  refine ⟨n, t, hn, hend.stage, hend.done, hend.status, hend.rxlen, fun i hi => ?_, fun i hi => ?_, hend.crc,
    hend.env_hostCmds, hend.env_rxLine, hend.env_ticks, hend.env_txStream⟩
  · rw [hend.stored i (hend.consumed.symm ▸ hi), List.getElem?_take_of_lt hi]
  · exact hend.kept i (hend.consumed.trans_le hi)

/-! ## A flipped bit (R123) -/

section
variable {sid : Byte} {r u : List Byte}

/-- What the row `OK` of the table says of the frame. -/
theorem whole_of_recvOutcome_ok (h : (recvOutcome sid r).status = .ok) :
    frameLenOf r ≤ 256 ∧ frameLenOf r ≤ r.length ∧ crc16 (r.take (frameLenOf r)) = 0 ∧
      (recvOutcome sid r).consumed = frameLenOf r := by
  generalize ho : recvOutcome sid r = o at h ⊢
  unfold recvOutcome at ho
  simp only [Bool.and_eq_true, beq_iff_eq, decide_eq_true_eq] at ho
  split_ifs at ho with hprefix hlength hcap htail hcrc haddr <;> subst ho
  on_goal 7 => exact ⟨(frameLenOf_fits_iff r).mpr hcap, Nat.le_of_not_lt htail, not_not.mp hcrc, rfl⟩
  all_goals cases h

/-- A whole frame that fails the CRC check takes the row `FAIL_CRC`. -/
theorem recvOutcome_failCrc (hfit : frameLenOf r ≤ 256) (hwhole : frameLenOf r ≤ r.length)
    (hcrc : crc16 (r.take (frameLenOf r)) ≠ 0) : recvOutcome sid r = ⟨.failCrc, frameLenOf r, 0, false⟩ := by
  have hmin := eight_le_frameLenOf r
  have hcap := (frameLenOf_fits_iff r).mp hfit
  unfold frameLenOf at hmin hwhole hcrc ⊢
  unfold recvOutcome
  simp only [Bool.and_eq_true, beq_iff_eq, decide_eq_true_eq]
  rw [if_neg (by omega), if_neg (fun h6 => by have := h6.2; omega), if_neg hcap, if_neg (Nat.not_lt.mpr hwhole)]
  exact if_pos hcrc

/-- The length of a frame is chosen by the kind of its function byte, and for a variable frame by its length
byte. -/
theorem frameLenOf_congr (hkind : isVar (u.getD 1 0) = isVar (r.getD 1 0))
    (hlength : isVar (r.getD 1 0) = true → u.getD 6 0 = r.getD 6 0) : frameLenOf u = frameLenOf r := by
  cases hv : isVar (r.getD 1 0) with
  | false => rw [frameLenOf_fixed hv, frameLenOf_fixed (hkind.trans hv)]
  | true => rw [frameLenOf_variable hv, frameLenOf_variable (hkind.trans hv), hlength hv]

/-- Bytes that pass the CRC check fail it with one bit flipped (40_crc_engine.md R99). -/
theorem crc16_set_flipped_ne_zero {f : List Byte} {i j : Nat} (hi : i < f.length) (hj : j < 8)
    (hpass : crc16 f = 0) : crc16 (f.set i (f.getD i 0 ^^^ (1 : Byte) <<< j)) ≠ 0 := by
  obtain ⟨-, -, hflip⟩ := singleBitFlipFailsTheCrcCheck
  have hsplit (b : Byte) : f.set i b = f.take i ++ [b] ++ f.drop (i + 1) := by
    rw [List.set_eq_take_append_cons_drop, if_pos hi, List.append_assoc, List.singleton_append]
  have hself : f = f.take i ++ [f.getD i 0] ++ f.drop (i + 1) := by
    rw [← hsplit, List.getD_eq_getElem _ _ hi, List.set_getElem_self]
  rw [hsplit]
  exact hflip _ _ _ j hj (hself ▸ hpass)

end

/-- Settles O57: the flipped frame has the length of the frame, and its CRC check fails. -/
theorem flippedBitOfAFrameIsRejected : Obligations.FlippedBitOfAFrameIsRejected := by
  intro sid r u i j hj hi hok hu hkind hlength
  obtain ⟨hfit, hwhole, hpass, hconsumed⟩ := whole_of_recvOutcome_ok hok
  rw [hconsumed] at hi ⊢
  have hsame := frameLenOf_congr hkind hlength
  have hlen : (r.take (frameLenOf r)).length = frameLenOf r := List.length_take_of_le hwhole
  have hcrc : crc16 (u.take (frameLenOf u)) ≠ 0 := by
    have hbyte : (r.take (frameLenOf r)).getD i 0 = r.getD i 0 := by
      rw [List.getD_eq_getElem?_getD, List.getElem?_take_of_lt hi, List.getD_eq_getElem?_getD]
    rw [hsame, hu, List.take_set, ← hbyte]
    exact crc16_set_flipped_ne_zero (hi.trans_eq hlen.symm) hj hpass
  have hrow : recvOutcome sid u = ⟨.failCrc, frameLenOf r, 0, false⟩ := by
    rw [← hsame]
    exact recvOutcome_failCrc (hsame.trans_le hfit) (by rw [hsame, hu, List.length_set]; exact hwhole) hcrc
  refine ⟨hrow, fun s a cs rest hs hq hc hl => ?_⟩
  obtain ⟨t, ⟨n, hn⟩, hend⟩ := receive_endsAs_recvOutcome hs hq hc hl (by rw [hrow]; exact nofun)
    (by rw [hrow]; exact nofun)
  rw [hrow] at hend
  exact ⟨n, t, hn, hend.stage, hend.done, hend.status, BitVec.eq_of_toNat_eq hend.rxlen,
    hend.env_rxLine, hend.env_ticks, hend.env_txStream⟩

end Sys2Proof.Machine
end

section
/-! The transmit side, step by step (42_rtu_transmit.md R140 to R144): what each rule does in one undisturbed
step. -/

namespace Sys2Proof.Machine

/-! ## `XMIT` -/

/-- Settles O22: the row `op` 4, and the two effects in `IDLE`, which the length tells apart. -/
theorem xmitStartsATransmitOrFailsOnCapacity : Obligations.XmitStartsATransmitOrFailsOnCapacity :=
  ⟨decodeCommand_xmit, fun a d _ h => ⟨execXmit_fits a d h, execXmit_tooLong a d h⟩⟩

/-! ## The CRC stage -/

theorem step_txCrc {s : State} (hq : s.Undisturbed) (hs : s.stage = .txCrc) : step s = crcStage s.clearDone := by
  rw [step_undisturbed s hq, agentStep_txCrc s.clearDone hs]

/-- Settles O36: below `TXLEN` by whether the byte has been written, and from `TXLEN` on the append. -/
theorem crcStageFoldsThenAppends : Obligations.CrcStageFoldsThenAppends := by
  intro s hq hs
  rw [step_txCrc hq hs]
  refine ⟨fun b hlt hb => ?_, fun hlt hb => ?_, fun hge hfits => ?_⟩
  · rw [crcStage_fold s.clearDone hlt, foldByte_listed s.clearDone b hb]; rfl
  · rw [crcStage_fold s.clearDone hlt, foldByte_unlisted s.clearDone hb]; rfl
  · obtain ⟨t, ht, hlo, hhi, hkept, hregs, -⟩ := appendCrc_inside s.clearDone hfits
    exact ⟨t, (crcStage_append s.clearDone hge).trans ht, hregs, hlo, hhi, hkept⟩

/-! ## The send stage -/

section
variable {s : State} {rest : List TxAnswer}

theorem step_takes_acceptance (hq : s.Undisturbed) (hs : s.stage = .txSend)
    (hl : s.env.txLine = .accept :: rest) : step s = .next (byteAccepted (s.clearDone.withTxLine rest)) := by
  rw [step_undisturbed s hq, agentStep_txSend s.clearDone hs]
  exact sendStage_accept s.clearDone rest hl

theorem step_takes_writeFailure (hq : s.Undisturbed) (hs : s.stage = .txSend)
    (hl : s.env.txLine = .fail :: rest) : step s = .next ((s.clearDone.withTxLine rest).fail .failWrite) := by
  rw [step_undisturbed s hq, agentStep_txSend s.clearDone hs]
  exact sendStage_fail s.clearDone rest hl

/-- Outside the stages that end a receive a success leaves `RXLEN` as it was (60_exceptions.md R204). -/
theorem completeOk_of_transmit (hs : s.stage = .txSend) :
    s.completeOk = { s with status := .ok, stage := .idle, done := true } := by
  unfold State.completeOk
  rw [if_neg (by simp [hs])]

/-- The byte offered is the one written at `IDX`, or a free value drawn for the offer (log 1). -/
theorem sendByte_of_offered {b : Byte} {n : Nat}
    (hb : s.byteAt (lowIndex s.idx).toNat = some b ∧ n = s.draws ∨
      s.byteAt (lowIndex s.idx).toNat = none ∧ b = Config.freeByte s.draws ∧ n = s.draws + 1) :
    sendByte s = { s with
      idx := s.idx + 1, draws := n, env := { s.env with txStream := s.env.txStream ++ [b] } } := by
  rcases hb with ⟨hlisted, rfl⟩ | ⟨hunlisted, rfl, rfl⟩
  · exact sendByte_listed s b hlisted
  · exact sendByte_unlisted s hunlisted

end

/-- Settles O37: the byte is sent, and the count of bytes sent tells whether it is the last. -/
theorem acceptedByteGoesOntoTheStream : Obligations.AcceptedByteGoesOntoTheStream := by
  intro s b n rest hq hs hl hb
  rw [step_takes_acceptance hq hs hl]
  have hsent := sendByte_of_offered (s := s.clearDone.withTxLine rest) hb
  refine ⟨fun hmore => ?_, fun hlast => ?_⟩
  · rw [byteAccepted_more (s.clearDone.withTxLine rest) hmore, hsent]; rfl
  · rw [byteAccepted_last (s.clearDone.withTxLine rest) hlast, completeOk_of_transmit (by simpa using hs), hsent]; rfl

/-- Settles O38: the failure is the answer to the offer. -/
theorem writeFailureEndsTheTransmit : Obligations.WriteFailureEndsTheTransmit :=
  fun _ _ hq hs hl => step_takes_writeFailure hq hs hl

/-! ## What writes the transmit stream (R143, 60_exceptions.md R203) -/

section
variable {s t : State}

theorem idleStage_txStream (hs : s.stage = .idle) (ht : idleStage s = .next t) :
    t.env.txStream = s.env.txStream := by
  rcases idleStage_next ht with rfl | ⟨cw, rest, -, hx⟩
  · rfl
  · rcases execCommand_next (s := s.withHostCmds rest) hs hx with
      ⟨c, r, n, rfl⟩ | ⟨-, rfl⟩ | ⟨-, rfl⟩ | ⟨-, -, rfl⟩ | ⟨-, rfl⟩ <;> rfl

theorem endOfRead_env (ht : endOfRead s = .next t) : t.env = s.env := by
  rcases endOfRead_next ht with ⟨n, r, g, rfl⟩ | ⟨n, rfl⟩ <;> rfl

theorem readStage_txStream (ht : readStage s = .next t) : t.env.txStream = s.env.txStream := by
  by_cases hr : s.rem = 0
  · rw [readStage_complete s hr] at ht
    rw [endOfRead_env ht]
  · rcases readStage_next hr ht with rfl | ⟨rest, rfl⟩ | ⟨b, rest, -, hb⟩
    · rfl
    · rfl
    · rcases rxByte_next hb with rfl | he
      · rfl
      · rw [endOfRead_env he]; rfl

theorem checkFrame_env (s : State) : (checkFrame s).env = s.env := by
  obtain ⟨n, ⟨k, h⟩ | h | h⟩ := checkFrame_cases s <;> rw [h] <;> rfl

theorem silenceStage_txStream (hs : s.stage = .rxSilence) (ht : silenceStage s = .next t) :
    t.env.txStream = s.env.txStream := by
  rcases silenceStage_next hs ht with rfl | ⟨n, -, rfl⟩ | ⟨n, rfl⟩ <;> rfl

theorem appendCrc_env (ht : appendCrc s = .next t) : t.env = s.env := by
  unfold appendCrc at ht
  split at ht <;> cases ht
  rfl

theorem crcStage_env (ht : crcStage s = .next t) : t.env = s.env := by
  rcases crcStage_next ht with ⟨-, rfl⟩ | ⟨-, ha⟩
  · exact foldByte_env s
  · exact appendCrc_env ha

/-- An acceptance puts one byte on the stream, whether or not it is the last. -/
theorem byteAccepted_env (s : State) :
    (byteAccepted s).env = { s.env with
      txStream := s.env.txStream ++ [(s.readByte (lowIndex s.idx)).1] } := by
  unfold byteAccepted
  split <;> rfl

/-- `s` to `t` is a step in `TX_SEND` that takes one acceptance and appends one byte to the stream. -/
def SendsOneByte (s t : State) : Prop :=
  s.stage = .txSend ∧ (∃ rest, s.env.txLine = .accept :: rest ∧ t.env.txLine = rest) ∧
    ∃ b, t.env.txStream = s.env.txStream ++ [b]

theorem sendStage_txStream (hs : s.stage = .txSend) (ht : sendStage s = .next t) :
    t.env.txStream = s.env.txStream ∨ SendsOneByte s t := by
  rcases hl : s.env.txLine with _ | ⟨_ | _, rest⟩
  · rw [sendStage_wait s hl] at ht; cases ht; exact .inl rfl
  · rw [sendStage_accept s rest hl] at ht
    cases ht
    have henv := byteAccepted_env (s.withTxLine rest)
    exact .inr ⟨hs, ⟨rest, hl, by rw [henv]; rfl⟩, ⟨_, by rw [henv]; rfl⟩⟩
  · rw [sendStage_fail s rest hl] at ht; cases ht; exact .inl rfl

theorem agentStep_txStream (ht : agentStep s = .next t) :
    t.env.txStream = s.env.txStream ∨ SendsOneByte s t := by
  cases hs : s.stage
  case idle => rw [agentStep_idle s hs] at ht; exact .inl (idleStage_txStream hs ht)
  case rxCheck => rw [agentStep_rxCheck s hs] at ht; cases ht; exact .inl (by rw [checkFrame_env])
  case rxSilence => rw [agentStep_rxSilence s hs] at ht; exact .inl (silenceStage_txStream hs ht)
  case txCrc => rw [agentStep_txCrc s hs] at ht; exact .inl (by rw [crcStage_env ht])
  case txSend => rw [agentStep_txSend s hs] at ht; exact sendStage_txStream hs ht
  all_goals
    rw [agentStep_read s (by rw [hs]; rfl)] at ht
    exact .inl (readStage_txStream ht)

end

/-- Settles O49: of the agents' moves only an acceptance in `TX_SEND` writes the stream, and no event outside
does. -/
theorem nothingIsTransmittedOutsideSend : Obligations.NothingIsTransmittedOutsideSend := by
  intro s t ht
  rcases step_cases s with ⟨-, hs⟩ | ⟨rest, -, hs⟩ | ⟨rest, -, hs⟩ | ⟨ct, rest, -, hs⟩ | ⟨level, rest, -, hs⟩ <;>
    rw [hs] at ht
  · exact agentStep_txStream (s := s.clearDone) ht
  · exact agentStep_txStream (s := s.clearDone.withSignals rest) ht
  all_goals cases ht; exact .inl rfl

end Sys2Proof.Machine
end

section
/-! A whole transmit (42_rtu_transmit.md R145), and the receive of what it sent. The CRC stage and the send stage
each walk over bytes that the buffer holds in a row; each is one lemma by induction on those bytes. -/

namespace Sys2Proof.Machine

/-! ## Bytes in a row -/

/-- The bytes `v` are in the buffer from index `n` on. -/
def State.Stores (s : State) (n : Nat) (v : List Byte) : Prop := ∀ i, i < v.length → s.byteAt (n + i) = v[i]?

section
variable {s : State} {n : Nat} {b : Byte} {u v : List Byte}

theorem State.Stores.head (h : s.Stores n (b :: v)) : s.byteAt n = some b := h 0 (Nat.zero_lt_succ _)

theorem State.Stores.tail (h : s.Stores n (b :: v)) : s.Stores (n + 1) v := fun i hi => by
  rw [Nat.add_assoc, Nat.add_comm 1 i]
  exact h (i + 1) (Nat.succ_lt_succ hi)

theorem State.Stores.left (h : s.Stores n (u ++ v)) : s.Stores n u := fun i hi => by
  rw [h i (by rw [List.length_append]; omega), List.getElem?_append_left hi]

theorem State.Stores.right (h : s.Stores n (u ++ v)) : s.Stores (n + u.length) v := fun i hi => by
  rw [Nat.add_assoc, h _ (by rw [List.length_append]; omega), List.getElem?_append_right (by omega),
    Nat.add_sub_cancel_left]

theorem State.Stores.append (hu : s.Stores n u) (hv : s.Stores (n + u.length) v) : s.Stores n (u ++ v) := fun i hi => by
  rw [List.length_append] at hi
  by_cases hiu : i < u.length
  · rw [hu i hiu, List.getElem?_append_left hiu]
  · rw [List.getElem?_append_right (by omega), ← hv (i - u.length) (by omega)]
    congr 1
    omega

end

/-! ## The CRC stage -/

section
variable {t : State} {v e : List Byte}

/-- The rest `v` of the envelope is folded, one byte a step (R142, first case). -/
theorem leadsTo_folded (hq : t.Undisturbed) (hs : t.stage = .txCrc) (hd : t.done = false)
    (hrest : t.idx.toNat + v.length = t.txlen.toNat) (hfits : t.txlen.toNat ≤ 254)
    (hv : t.Stores t.idx.toNat v) : LeadsTo t { t with crc := crcFold t.crc v, idx := t.txlen } := by
  induction v generalizing t with
  | nil =>
    have hend : t.idx = t.txlen := BitVec.eq_of_toNat_eq hrest
    have hself : { t with idx := t.txlen } = t := congrArg (fun i : Len => { t with idx := i }) hend.symm
    rw [crcFold_nil, hself]
    exact .refl t
  | cons b v ih =>
    rw [List.length_cons] at hrest
    have hidx : (t.idx + 1).toNat = t.idx.toNat + 1 := len_succ_toNat (by omega)
    obtain ⟨hfold, -, -⟩ := crcStageFoldsThenAppends t hq hs
    have hstep := hfold b (by omega) (by rw [lowIndex_of_lt _ (by omega)]; exact hv.head)
    rw [← hd] at hstep
    refine .head hstep (ih hq hs hd (by simp only; omega) hfits ?_)
    simp only [hidx]
    exact hv.tail

/-- The whole CRC stage: the buffer then holds the envelope and its CRC, low byte first (R142). -/
theorem leadsTo_appended (hq : t.Undisturbed) (hs : t.stage = .txCrc) (hd : t.done = false)
    (hcrc : t.crc = Config.crcSeed) (hidx : t.idx = 0) (hlen : t.txlen.toNat = e.length) (hfits : e.length ≤ 254)
    (he : t.Stores 0 e) :
    ∃ m, LeadsTo t { t with crc := crc16 e, buf := m, idx := 0, stage := .txSend } ∧
      State.Stores { t with buf := m } 0 (e ++ le16 (crc16 e)) ∧
      ∀ a, a ≠ e.length → a ≠ e.length + 1 → State.byteAt { t with buf := m } a = t.byteAt a := by
  have hfold := leadsTo_folded (v := e) hq hs hd (by rw [hidx, hlen]; exact Nat.zero_add _) (by omega)
    (by rw [hidx]; exact he)
  rw [hcrc] at hfold
  obtain ⟨-, -, happend⟩ := crcStageFoldsThenAppends { t with crc := crc16 e, idx := t.txlen } hq hs
  obtain ⟨w, hstep, hw, hlo, hhi, hkept⟩ := happend le_rfl (hlen.trans_le hfits)
  rw [hw, ← hd] at hstep
  simp only [hlen] at hlo hhi hkept
  refine ⟨w.buf, hfold.trans (.of_step hstep), .append (fun i hi => ?_) (fun i hi => ?_), hkept⟩
  · exact (hkept _ (by omega) (by omega)).trans (he i hi)
  · rw [Nat.zero_add]
    match i, hi with
    | 0, _ => exact hlo
    | 1, _ => exact hhi

end

/-! ## The send stage -/

section
variable {t : State} {b : Byte} {v f : List Byte} {rest : List TxAnswer}

/-- The bytes `v`, of which the last of the frame is none, are sent, one an acceptance (R143). -/
theorem leadsTo_sent (hq : t.Undisturbed) (hs : t.stage = .txSend) (hd : t.done = false)
    (hl : t.env.txLine = List.replicate v.length .accept ++ rest)
    (hmore : t.idx.toNat + v.length < t.txlen.toNat + 2) (hfits : t.txlen.toNat ≤ 254)
    (hv : t.Stores t.idx.toNat v) :
    ∃ i : Len, i.toNat = t.idx.toNat + v.length ∧
      LeadsTo t { t with idx := i, env := { t.env with txLine := rest, txStream := t.env.txStream ++ v } } := by
  induction v generalizing t with
  | nil => exact ⟨t.idx, rfl, by rw [List.append_nil, ← show t.env.txLine = rest from hl]; exact .refl t⟩
  | cons b v ih =>
    rw [List.length_cons] at hl hmore
    have hidx : (t.idx + 1).toNat = t.idx.toNat + 1 := len_succ_toNat (by omega)
    obtain ⟨hsend, -⟩ := acceptedByteGoesOntoTheStream t b t.draws _ hq hs hl
      (.inl ⟨by rw [lowIndex_of_lt _ (by omega)]; exact hv.head, rfl⟩)
    have hstep := hsend (by omega)
    rw [← hd] at hstep
    obtain ⟨i, hi, hrest⟩ := ih (t := { t with
        idx := t.idx + 1
        env := { t.env with
          txLine := List.replicate v.length .accept ++ rest, txStream := t.env.txStream ++ [b] } })
      hq hs hd rfl (by simp only; omega) hfits (by simp only [hidx]; exact hv.tail)
    rw [List.append_assoc] at hrest
    exact ⟨i, by simp only [hidx] at hi; simp only [List.length_cons]; omega, .head hstep hrest⟩

/-- The state in which a transmit that sent `sent` leaves the block, with `line` the transport's answers to
come. -/
def transmitEnded (k : Status) (i : Len) (sent : List Byte) (line : List TxAnswer) (s : State) : State :=
  { s with
    idx := i, status := k, stage := .idle, done := true
    env := { s.env with txLine := line, txStream := s.env.txStream ++ sent } }

/-- A write failure after the bytes `v` ends the transmit (R144). -/
theorem leadsTo_writeFailure (hq : t.Undisturbed) (hs : t.stage = .txSend) (hd : t.done = false)
    (hl : t.env.txLine = List.replicate v.length .accept ++ .fail :: rest)
    (hmore : t.idx.toNat + v.length < t.txlen.toNat + 2) (hfits : t.txlen.toNat ≤ 254)
    (hv : t.Stores t.idx.toNat v) : ∃ i, LeadsTo t (transmitEnded .failWrite i v rest t) := by
  obtain ⟨i, -, hsent⟩ := leadsTo_sent hq hs hd hl hmore hfits hv
  exact ⟨i, hsent.trans (.of_step (writeFailureEndsTheTransmit _ rest hq hs rfl))⟩

/-- The acceptance of the frame's last byte completes the transmit (R143). -/
theorem leadsTo_last_acceptance (hq : t.Undisturbed) (hs : t.stage = .txSend) (hd : t.done = false)
    (hl : t.env.txLine = List.replicate (v ++ [b]).length .accept ++ rest)
    (hlast : t.idx.toNat + (v ++ [b]).length = t.txlen.toNat + 2) (hfits : t.txlen.toNat ≤ 254)
    (hv : t.Stores t.idx.toNat (v ++ [b])) : ∃ i, LeadsTo t (transmitEnded .ok i (v ++ [b]) rest t) := by
  rw [List.length_append, List.length_singleton] at hl hlast
  rw [List.replicate_succ', List.append_assoc] at hl
  obtain ⟨i, hi, hsent⟩ := leadsTo_sent hq hs hd hl (by omega) hfits hv.left
  have hnext : (i + 1).toNat = t.txlen.toNat + 2 := by rw [len_succ_toNat (by omega)]; omega
  have hoffered : t.byteAt (lowIndex i).toNat = some b := by
    rw [lowIndex_of_lt _ (by omega), hi]
    exact hv.right.head
  obtain ⟨-, hsend⟩ := acceptedByteGoesOntoTheStream
    { t with idx := i, env := { t.env with txLine := .accept :: rest, txStream := t.env.txStream ++ v } }
    b t.draws rest hq hs rfl (.inl ⟨hoffered, rfl⟩)
  have hstep := hsend hnext
  rw [List.append_assoc] at hstep
  exact ⟨i + 1, hsent.trans (.of_step hstep)⟩

/-- The whole send stage of the frame `f`: all of it is accepted, or the transport fails after `k` bytes. -/
theorem leadsTo_transmitEnded {k : Nat} (hq : t.Undisturbed) (hs : t.stage = .txSend) (hd : t.done = false)
    (hidx : t.idx = 0) (hlen : f.length = t.txlen.toNat + 2) (hfits : t.txlen.toNat ≤ 254) (hf : t.Stores 0 f)
    (hk : k ≤ f.length) (hl : t.env.txLine = List.replicate k .accept ++ rest)
    (hfail : k < f.length → ∃ more, rest = .fail :: more) :
    ∃ i, LeadsTo t (transmitEnded (if k < f.length then .failWrite else .ok) i (f.take k)
      (if k < f.length then rest.tail else rest) t) := by
  have hzero : t.idx.toNat = 0 := by rw [hidx]; rfl
  rw [← hzero] at hf
  by_cases hshort : k < f.length
  · rw [if_pos hshort, if_pos hshort]
    obtain ⟨more, rfl⟩ := hfail hshort
    have hsent : (f.take k).length = k := List.length_take_of_le hk
    refine leadsTo_writeFailure hq hs hd (by rw [hsent]; exact hl) (by omega) hfits ?_
    exact State.Stores.left (v := f.drop k) (by rwa [List.take_append_drop])
  · have hall : k = f.length := by omega
    rw [if_neg hshort, if_neg hshort, hall, List.take_length]
    obtain ⟨v, b, rfl⟩ := (List.eq_nil_or_concat' f).resolve_left (by rintro rfl; cases hlen)
    exact leadsTo_last_acceptance hq hs hd (hall ▸ hl) (by omega) hfits hf

end

/-! ## From `XMIT` on -/

theorem step_takes_xmit {s : State} {a : Len} {sid : Byte} {cs : List CmdWord} (hs : s.stage = .idle)
    (hq : s.Undisturbed) (ha : a.toNat ≤ 254) (hc : s.env.hostCmds = packCommand 4 a sid :: cs) :
    step s = .next (xmitStarted a sid (s.clearDone.withHostCmds cs)) := by
  rw [stepRunsTheDecodedCommand s _ cs hq hs hc]
  exact (congrArg (exec · _) (decodeCommand_xmit a sid)).trans (execXmit_fits a sid hs ha)

/-- Settles O55: acceptance of `XMIT`, the CRC stage and the send stage, one after another. -/
theorem wholeTransmitSendsTheEnvelopeAndItsCrc : Obligations.WholeTransmitSendsTheEnvelopeAndItsCrc := by
  intro s sid cs e k rest hs hq hfits he hc hk hl hfail
  have hlen : (BitVec.ofNat 9 e.length).toNat = e.length := by simp; omega
  have hframe : (e ++ le16 (crc16 e)).length = e.length + 2 := List.length_append
  have hstart := step_takes_xmit hs hq (hlen.trans_le hfits) hc
  obtain ⟨m, happend, hf, hkept⟩ :=
    leadsTo_appended (t := xmitStarted (BitVec.ofNat 9 e.length) sid (s.clearDone.withHostCmds cs)) (e := e)
      hq rfl rfl rfl rfl hlen hfits (fun i hi => by rw [Nat.zero_add]; exact he i hi)
  rw [← hframe] at hk hfail ⊢
  obtain ⟨i, hsend⟩ := leadsTo_transmitEnded
    (t := { xmitStarted (BitVec.ofNat 9 e.length) sid (s.clearDone.withHostCmds cs) with
      crc := crc16 e, buf := m, idx := 0, stage := .txSend })
    hq rfl rfl rfl (by rw [hframe]; exact congrArg (· + 2) hlen.symm) (hlen.trans_le hfits) hf hk hl hfail
  obtain ⟨n, hn⟩ := LeadsTo.head hstart (happend.trans hsend)
  have hcrc : State.Stores _ _ (le16 (crc16 e)) := hf.right
  rw [Nat.zero_add] at hcrc
  exact ⟨n, _, hn, rfl, rfl, rfl, rfl, rfl, rfl, rfl, rfl, hcrc.head, hcrc.tail.head, hkept⟩

/-! ## The frame that was transmitted, received (41_rtu_receive.md R120) -/

/-- A fixed envelope for the station, with its CRC after it, takes the row `OK`. -/
theorem recvOutcome_fixed_frame {sid : Byte} {e : List Byte} (hlen : e.length = 6) (hsid : e[0]? = some sid)
    (hfixed : ∀ fc, e[1]? = some fc → isVar fc = false) :
    recvOutcome sid (e ++ le16 (crc16 e)) = ⟨.ok, 8, 6, true⟩ := by
  obtain ⟨hresidue, -⟩ := appendingTheCrcLeavesResidueZero
  have hframe : (e ++ le16 (crc16 e)).length = 8 := by rw [List.length_append, hlen]; rfl
  have haddr : (e ++ le16 (crc16 e)).getD 0 0 = sid := by
    rw [List.getD_append _ _ _ _ (by omega), List.getD_eq_getElem?_getD, hsid]; rfl
  have hkind : isVar ((e ++ le16 (crc16 e)).getD 1 0) = false := by
    rw [List.getD_append _ _ _ _ (by omega), List.getD_eq_getElem _ _ (by omega)]
    exact hfixed _ (List.getElem?_eq_getElem _)
  have hwhole : (e ++ le16 (crc16 e)).take 8 = e ++ le16 (crc16 e) := List.take_of_length_le hframe.le
  simp only [recvOutcome, hframe, hkind, frameLen_fixed _ hkind, hwhole, hresidue, haddr, ne_eq, not_true_eq_false,
    if_false]
  rfl

/-- Settles O56: the whole transmit (O55) puts the envelope and its CRC on the stream, and the whole receive
(O54) of a frame that takes the row `OK` ends so. -/
theorem transmittedFixedFrameIsReceived : Obligations.TransmittedFixedFrameIsReceived := by
  intro s sid x e cs more hlen hsid hfixed hs hq he hc hl hstream
  have hframe : (e ++ le16 (crc16 e)).length = 8 := by rw [List.length_append, hlen]; rfl
  obtain ⟨n, t, hn, hstage, -, hstatus, -, -, hsent, -⟩ :=
    wholeTransmitSendsTheEnvelopeAndItsCrc s x cs e 8 more hs hq (by omega) (by rwa [hlen]) (by rw [hlen]; exact hc)
      (by omega) hl (fun h => by omega)
  rw [hstream, List.nil_append, List.take_of_length_le hframe.le] at hsent
  rw [hlen] at hstatus
  refine ⟨n, t, hn, hstage, hstatus, by rw [hsent, hframe], fun r a ds rest hrs hrq hrc hrl hticks => ?_⟩
  have hrow := recvOutcome_fixed_frame hlen hsid hfixed
  rw [hsent] at hrl ⊢
  obtain ⟨k, u, hk, hidle, hdone, hok, hrxlen, hstored, -, -, -, hline, -⟩ :=
    wholeReceiveEndsAsItsTableSays r a sid ds _ rest hrs hrq hrc hrl (by rw [hrow]; exact nofun) hticks
  rw [hrow] at hok hrxlen hstored hline
  refine ⟨k, u, hk, hidle, hdone, hok, BitVec.eq_of_toNat_eq hrxlen, ?_, hstored⟩
  rw [hline, if_neg nofun, List.drop_of_length_le hframe.le]
  rfl

end Sys2Proof.Machine
end

section
/-! The host's access to the buffer, and the commands without effect (43_host_access.md R160 to R164;
93_implementation_defined.md U1): what each answers in `IDLE`, and what every command answers elsewhere. -/

namespace Sys2Proof.Machine

/-! ## In `IDLE` -/

theorem exec_nop_idle (a : Len) (d : Byte) {s : State} (h : s.stage = .idle) : exec (.nop a d) s = .next s :=
  whenIdle_idle s _ h

/-- Settles O18: the row `op` 0, and the effect in `IDLE`. -/
theorem nopChangesNothing : Obligations.NopChangesNothing :=
  ⟨decodeCommand_nop, ⟨rfl, rfl⟩, fun a d _ h => exec_nop_idle a d h⟩

theorem exec_bufWr_idle (i d : Byte) {s : State} (h : s.stage = .idle) :
    exec (.bufWr i d) s = .next (s.writeByte i d) := whenIdle_idle s _ h

/-- Settles O23: the write is `writeByte`, which is a write of the buffer alone and of one of its bytes. -/
theorem bufWrWritesOneByte : Obligations.BufWrWritesOneByte := by
  refine ⟨decodeCommand_op5 0, fun i d s h => ⟨store s.buf i.toNat d, exec_bufWr_idle i d h, fun t ht => ?_⟩⟩
  rw [exec_bufWr_idle i d h] at ht
  cases ht
  exact ⟨byteAt_writeByte_same s i d, byteAt_writeByte_other s i d⟩

theorem exec_bufRd_idle (i d : Byte) {s : State} (h : s.stage = .idle) :
    exec (.bufRd i d) s = .next { (s.readByte i).2 with bufRdata := (s.readByte i).1 } := whenIdle_idle s _ h

/-- Settles O24: by whether the byte has been written, which is what a read of it depends on. -/
theorem bufRdReadsOneByte : Obligations.BufRdReadsOneByte := by
  refine ⟨decodeCommand_op6 0, fun i d s h => ⟨fun b hb => ?written, fun hb => ?unwritten⟩⟩
  case written => rw [exec_bufRd_idle i d h, readByte_listed s i b hb]
  case unwritten => rw [exec_bufRd_idle i d h, readByte_unlisted s i hb]

theorem exec_reserved5Hi_idle (x d : Byte) {s : State} (h : s.stage = .idle) :
    exec (.reserved5Hi x d) s = .next s := whenIdle_idle s _ h

theorem exec_reserved6Hi_idle (x d : Byte) {s : State} (h : s.stage = .idle) :
    exec (.reserved6Hi x d) s = .next s := whenIdle_idle s _ h

theorem exec_reserved7_idle (a : Len) (d : Byte) {s : State} (h : s.stage = .idle) :
    exec (.reserved7 a d) s = .next s := whenIdle_idle s _ h

/-- Settles O25: the three reserved rows, and the effect of each in `IDLE`. -/
theorem reservedWordsChangeNothing : Obligations.ReservedWordsChangeNothing :=
  ⟨decodeCommand_reserved7, fun x d => ⟨decodeCommand_op5 1 x d, decodeCommand_op6 1 x d⟩, fun a x d _ h =>
    ⟨exec_reserved5Hi_idle x d h, exec_reserved6Hi_idle x d h, exec_reserved7_idle a d h⟩⟩

/-! ## Outside `IDLE` -/

/-- An instruction that a command word stands for is refused in a busy block; the others are function bytes. -/
theorem exec_busy {i : Instr} {cw : CmdWord} {s : State} (hi : encode i = .command cw) (hs : s.stage ≠ .idle) :
    exec i s = .refused .hostNotOwner := by
  cases i with
  | nop | crcInit | crcUpdate | recv | xmit | bufWr | bufRd | reserved5Hi | reserved6Hi | reserved7 =>
    exact whenIdle_busy s _ hs
  | fcReadCoils | fcReadDiscreteInputs | fcReadHoldingRegisters | fcReadInputRegisters | fcWriteSingleCoil
  | fcWriteSingleHoldingRegister | fcWriteMultipleCoils | fcWriteMultipleHoldingRegisters | fcOther =>
    cases hi

/-- Settles O26: what a command word decodes to encodes to that word, so it is the instruction of a command. -/
theorem commandsAreRefusedWhileBusy : Obligations.CommandsAreRefusedWhileBusy := fun cw _ hs =>
  exec_busy (encode_decode (.command cw)).1 hs

end Sys2Proof.Machine
end

section
/-! How an operation ends and that no step stops the machine (60_exceptions.md R200 to R205). -/

namespace Sys2Proof.Machine

variable {s t : State}

/-! ## The two endings -/

/-- Settles O39: `fail` is that update, and no byte of the buffer is in it. -/
theorem failureWritesStatusAndGoesIdle : Obligations.FailureWritesStatusAndGoesIdle :=
  fun kind s => ⟨rfl, byteAt_fail kind s⟩

/-- A success outside the two stages that end a receive writes no `RXLEN`. -/
theorem completeOk_elsewhere (hc : s.stage ≠ .rxCheck) (hw : s.stage ≠ .rxSilence) :
    s.completeOk = { s with status := .ok, stage := .idle, done := true } := by
  unfold State.completeOk
  rw [if_neg (not_or.mpr ⟨hc, hw⟩)]

/-- Settles O40: by whether the stage is one of the two that end a receive. -/
theorem successWritesStatusAndTheReceivedLength : Obligations.SuccessWritesStatusAndTheReceivedLength :=
  fun _ => ⟨completeOk_of_receive, completeOk_elsewhere⟩

/-! ## The statuses an operation ends with (R201) -/

/-- Of the rows that leave a receive stage, those into `IDLE` carry these statuses. -/
theorem stageRow_receive_ends (h : stageRow s t) (ht : t.stage = .idle) (hs : s.stage.isReceive = true) :
    t.status = .ok ∨ t.status = .failRead ∨ t.status = .failCrc ∨ t.status = .failAddr ∨ t.status = .failCap := by
  cases hg : s.stage <;> simp only [stageRow, hg, ht, reduceCtorEq, false_and, true_and, false_or] at h
  case rxPrefix => exact .inr (.inl h)
  case rxLen =>
    rcases h with ⟨hcap, -⟩ | hread
    · exact .inr (.inr (.inr (.inr hcap)))
    · exact .inr (.inl hread)
  case rxTail => exact .inr (.inl h)
  case rxCheck =>
    rcases h with ⟨hcrc, -⟩ | ⟨haddr, -⟩ | ⟨hok, -⟩
    · exact .inr (.inr (.inl hcrc))
    · exact .inr (.inr (.inr (.inl haddr)))
    · exact .inl hok
  case rxSilence =>
    obtain ⟨hok, -⟩ := h
    exact .inl hok
  all_goals rw [hg] at hs; cases hs

/-- Of the rows that leave a transmit stage, those into `IDLE` carry these statuses. -/
theorem stageRow_transmit_ends (h : stageRow s t) (ht : t.stage = .idle) (hs : s.stage.isTransmit = true) :
    t.status = .ok ∨ t.status = .failWrite := by
  cases hg : s.stage <;> simp only [stageRow, hg, ht, reduceCtorEq, false_and, true_and, false_or] at h
  case txSend =>
    rcases h with ⟨hok, -⟩ | hwrite
    · exact .inl hok
    · exact .inr hwrite
  all_goals rw [hg] at hs; cases hs

theorem Stage.isReceive_or_isTransmit {g : Stage} (h : g ≠ .idle) : g.isReceive = true ∨ g.isTransmit = true := by
  cases g with
  | idle => exact absurd rfl h
  | rxPrefix | rxLen | rxTail | rxCheck | rxSilence => exact .inl rfl
  | txCrc | txSend => exact .inr rfl

/-- An operation that ends has a result. -/
theorem stageRow_ends_with_result (h : stageRow s t) (ht : t.stage = .idle) (hs : s.stage ≠ .idle) :
    t.status ≠ .none := by
  intro hnone
  rcases Stage.isReceive_or_isTransmit hs with hr | hx
  · simpa [hnone] using stageRow_receive_ends h ht hr
  · simpa [hnone] using stageRow_transmit_ends h ht hx

/-- Settles O46: the step takes a row of the stage tables, whose status is a new one, and outside `IDLE` only a
completion writes `STATUS`. -/
theorem operationsEndOnlyInTheirOwnStatuses : Obligations.OperationsEndOnlyInTheirOwnStatuses := by
  intro s t h hq hst ht
  have hrow : stageRow s t := stepsFollowTheStageTables s t h hq hst
  refine ⟨stageRow_receive_ends hrow ht, stageRow_transmit_ends hrow ht, fun hs => ?_⟩
  have hnone : s.status = .none := (h.busyHasNoResult hs).1
  rw [step_undisturbed s hq] at hst
  rcases agentStep_status (s := s.clearDone) hs hst with hkept | ⟨-, hdone⟩
  · exact absurd (hkept.trans hnone) (stageRow_ends_with_result hrow ht hs)
  · exact hdone

/-! ## No step stops (R200, R205) -/

/-- An instruction that a command word stands for answers a next state in an idle block. -/
theorem exec_command_answers {i : Instr} {cw : CmdWord} (hi : encode i = .command cw) (hs : s.stage = .idle) :
    ∃ t, exec i s = .next t := by
  cases i with
  | nop | crcInit | crcUpdate | recv | xmit | bufWr | bufRd | reserved5Hi | reserved6Hi | reserved7 =>
    exact ⟨_, whenIdle_idle s (.next _) hs⟩
  | fcReadCoils | fcReadDiscreteInputs | fcReadHoldingRegisters | fcReadInputRegisters | fcWriteSingleCoil
  | fcWriteSingleHoldingRegister | fcWriteMultipleCoils | fcWriteMultipleHoldingRegisters | fcOther =>
    cases hi

theorem idleStage_answers (hs : s.stage = .idle) : ∃ t, idleStage s = .next t := by
  cases hc : s.env.hostCmds with
  | nil => exact ⟨s, idleStage_wait s hc⟩
  | cons cw rest =>
    rw [idleStage_cmd s cw rest hc]
    exact exec_command_answers (s := s.withHostCmds rest) (encode_decode (.command cw)).1 hs

/-- Under the invariant the function byte is run only when it is due, so a delivered byte is never refused. -/
theorem rxByte_answers {b : Byte} (h : s.Inv) (hs : s.stage.isRead = true) : ∃ t, rxByte b s = .next t := by
  by_cases hlast : s.rem = 1
  · cases hg : s.stage
    case rxPrefix =>
      have hdue : (takeByte b s).rem = 0 := by rw [takeByte_rem, hlast]; rfl
      rw [rxByte_prefix b _ s hg hlast (h.prefix_functionByte hg hlast), endPrefix_due _ (takeByte b s) hg hdue]
      exact ⟨_, rfl⟩
    case rxLen => exact ⟨_, rxByte_length b s hg hlast⟩
    case rxTail => exact ⟨_, rxByte_tail b s hg hlast⟩
    all_goals rw [hg] at hs; cases hs
  · exact ⟨_, rxByte_more b s hlast⟩

theorem readStage_answers (h : s.Inv) (hs : s.stage.isRead = true) : ∃ t, readStage s = .next t := by
  have hr := h.read_rem_ne_zero hs
  rcases hl : s.env.rxLine with _ | ⟨b | _, rest⟩
  · exact ⟨s, readStage_wait s hr hl⟩
  · rw [readStage_byte s b rest hr hl]
    exact rxByte_answers (s := s.withRxLine rest) (h.withEnv _) hs
  · exact ⟨_, readStage_fail s rest hr hl⟩

theorem silenceStage_answers (s : State) : ∃ t, silenceStage s = .next t := by
  cases hn : s.env.ticks with
  | zero => exact ⟨s, silenceStage_wait s hn⟩
  | succ n => exact ⟨_, silenceStage_tick s n hn⟩

/-- Under the invariant the two bytes of the CRC are appended inside the buffer, so the append does not fault. -/
theorem crcStage_answers (h : s.Inv) (hs : s.stage = .txCrc) : ∃ t, crcStage s = .next t := by
  rcases Nat.lt_or_ge s.idx.toNat s.txlen.toNat with hlt | hge
  · exact ⟨_, crcStage_fold s hlt⟩
  · obtain ⟨-, hfits⟩ := h.txCrc hs
    obtain ⟨t, ht, -⟩ := appendCrc_inside s hfits
    exact ⟨t, (crcStage_append s hge).trans ht⟩

theorem sendStage_answers (s : State) : ∃ t, sendStage s = .next t := by
  rcases hl : s.env.txLine with _ | ⟨_ | _, rest⟩
  · exact ⟨s, sendStage_wait s hl⟩
  · exact ⟨_, sendStage_accept s rest hl⟩
  · exact ⟨_, sendStage_fail s rest hl⟩

theorem agentStep_answers (h : s.Inv) : ∃ t, agentStep s = .next t := by
  cases hs : s.stage
  case idle => rw [agentStep_idle s hs]; exact idleStage_answers hs
  case rxCheck => exact ⟨_, agentStep_rxCheck s hs⟩
  case rxSilence => rw [agentStep_rxSilence s hs]; exact silenceStage_answers s
  case txCrc => rw [agentStep_txCrc s hs]; exact crcStage_answers h hs
  case txSend => rw [agentStep_txSend s hs]; exact sendStage_answers s
  all_goals
    have hread : s.stage.isRead = true := by rw [hs]; rfl
    rw [agentStep_read s hread]
    exact readStage_answers h hread

/-- Settles O52: the agents' moves answer under the invariant, and what comes from outside always does. -/
theorem noStepStopsUnderTheInvariant : Obligations.NoStepStopsUnderTheInvariant := by
  intro s h
  rcases step_cases s with ⟨-, hs⟩ | ⟨rest, -, hs⟩ | ⟨rest, -, hs⟩ | ⟨ct, rest, -, hs⟩ | ⟨level, rest, -, hs⟩
  · rw [hs]; exact agentStep_answers (s := s.clearDone) (h.toMove s.env.signals)
  · rw [hs]; exact agentStep_answers (h.toMove rest)
  · exact ⟨_, hs⟩
  · exact ⟨_, hs⟩
  · exact ⟨_, hs⟩

end Sys2Proof.Machine
end

section
/-! Waiting and reset (70_reset_and_hazards.md R230, R231, R244): a stage whose agent has nothing to give, and the
event that abandons whatever the block was doing. -/

namespace Sys2Proof.Machine

variable {s : State}

/-! ## Waiting (R244) -/

/-- Where the agent whose turn it is leaves the block as it is, the step does no more than let `done` fall. -/
theorem step_waits (hq : s.Undisturbed) (hw : agentStep s.clearDone = .next s.clearDone) :
    step s = .next { s with done := false } :=
  (step_undisturbed s hq).trans hw

theorem agentStep_idle_wait (hs : s.stage = .idle) (hl : s.env.hostCmds = []) : agentStep s = .next s :=
  (agentStep_idle s hs).trans (idleStage_wait s hl)

theorem agentStep_read_wait (hs : s.stage.isRead = true) (hr : s.rem ≠ 0) (hl : s.env.rxLine = []) :
    agentStep s = .next s :=
  (agentStep_read s hs).trans (readStage_wait s hr hl)

theorem agentStep_txSend_wait (hs : s.stage = .txSend) (hl : s.env.txLine = []) : agentStep s = .next s :=
  (agentStep_txSend s hs).trans (sendStage_wait s hl)

theorem agentStep_rxSilence_wait (hs : s.stage = .rxSilence) (hn : s.env.ticks = 0) : agentStep s = .next s :=
  (agentStep_rxSilence s hs).trans (silenceStage_wait s hn)

/-- Settles O41: one wait for each agent, the host, the transport's two lines and the tick. -/
theorem waitingStagesHaveNoTimeout : Obligations.WaitingStagesHaveNoTimeout := by
  intro s hq
  refine ⟨fun hs hl => ?host, fun hs hr hl => ?receive, fun hs hl => ?send, fun hs hn => ?silence⟩
  case host => exact step_waits hq (agentStep_idle_wait (s := s.clearDone) hs hl)
  case receive =>
    have h0 : s.rem ≠ 0 := fun h => by simp [h] at hr
    exact step_waits hq (agentStep_read_wait (s := s.clearDone) hs h0 hl)
  case send => exact step_waits hq (agentStep_txSend_wait (s := s.clearDone) hs hl)
  case silence => exact step_waits hq (agentStep_rxSilence_wait (s := s.clearDone) hs hn)

/-! ## Reset (R230, R231) -/

/-- A reset that comes next is the whole step, whatever the stage: of what a step can be, only the reset event
agrees with the signal. -/
theorem step_reset {rest : List Signal} (h : s.env.signals = .reset :: rest) :
    step s = .next (resetEvent (s.clearDone.withSignals rest)) := by
  simpa [h] using step_cases s

theorem byteAt_resetEvent (s : State) (a : Nat) : (resetEvent s).byteAt a = none := lookup_nil a

/-- Settles O42: the next state is the reset event's. -/
theorem resetEventGivesTheResetValues : Obligations.ResetEventGivesTheResetValues :=
  fun s rest h => ⟨resetEvent (s.clearDone.withSignals rest), step_reset h, rfl, byteAt_resetEvent _⟩

end Sys2Proof.Machine
end
